-- ==== Sys2Proof/Word.lean ====
section
/-! DEFINITION. The data types the spec computes with: bytes and byte strings of fixed length (00_scope R7, R8, R10, R11).
A byte string is a vector indexed from byte 0, because the spec indexes it so; it is never an integer here. -/

namespace Sys2Proof

/-- A byte: 8 bits, value 0..255, bit `k` of weight `2^k` (00_scope R10). -/
abbrev Byte := BitVec 8

/-- `B128`, one lane: 16 bytes (00_scope R8, R11). -/
abbrev Lane := Vector Byte 16

/-- `P256`, one lane-pair: sub-lane 0 is bytes 0..15, sub-lane 1 is bytes 16..31 (00_scope R8, R11). -/
abbrev Pair := Vector Byte 32

/-- `BLK`, one 64-byte block or chunk; also a digest and a generator state image (00_scope R7, R8). -/
abbrev Block := Vector Byte 64

/-- `CHUNK_BYTES`, `STATE_BYTES`, `DIGEST_BYTES` and `LANESTATE_BYTES` of 00_scope R7 are all 64. -/
abbrev chunkBytes : Nat := 64

/-- A lane state: lane-pair A ("02") and lane-pair B ("13"), 512 bits (00_scope R14, 90_conflicts C1). -/
structure LaneState where
  /-- lane-pair A -/
  a : Pair
  /-- lane-pair B -/
  b : Pair
  deriving DecidableEq, Repr, Inhabited

end Sys2Proof
end

