-- ==== Sys2Proof/Config.lean ====
section
/-! DEFINITION. The configuration: everything 00_scope R8 leaves to the installation, as one record of plain data, and the
values the spec leaves open, as constants with no body. No rule of the spec writes any of it (10_state R36 to R38). -/

namespace Sys2Proof

/-- `PERM64`: an interleave table with its inverse; both directions are total on 0..63, so it is a bijection
(00_scope R11, 40_tables R100, R101). `fwd[p]` is the block offset of the byte at physical position `p`. -/
structure Perm64 where
  fwd : Vector (Fin 64) 64
  inv : Vector (Fin 64) 64
  inv_fwd : ∀ p : Fin 64, inv[fwd[p]] = p
  fwd_inv : ∀ i : Fin 64, fwd[inv[i]] = i
  deriving DecidableEq, Repr

/-- The table of a permutation of 0..63. -/
def Perm64.ofEquiv (e : Equiv.Perm (Fin 64)) : Perm64 where
  fwd := Vector.ofFn e
  inv := Vector.ofFn e.symm
  inv_fwd p := by simp
  fwd_inv i := by simp

/-- The constants store: fourteen `P256` values (10_state R36). -/
structure Constants where
  /-- `HINIT_A` -/
  hInitA : Pair
  /-- `HINIT_B` -/
  hInitB : Pair
  /-- `XK[0..1]`, the whitening keys -/
  xk : Vector Pair 2
  /-- `G1K_A` -/
  g1kA : Pair
  /-- `G1K_B` -/
  g1kB : Pair
  /-- `G4K_A[0..3]` -/
  g4kA : Vector Pair 4
  /-- `G4K_B[0..3]` -/
  g4kB : Vector Pair 4
  deriving DecidableEq, Repr, Inhabited

/-- The answer of a static instruction-set query (44_capability R176, `PLAT.static`). The width is 16 bits, the width of
`CAP.VEC_WIDTH`: a wider one is outside the parameter's type (93 U16; log entry 22). -/
structure StaticQuery where
  aes : Bool
  wideSimd : Bool
  vecWidth : BitVec 16
  deriving DecidableEq, Repr, Inhabited

/-- What executing the vector-extension probe instruction does (44_capability R176, `PLAT.vec_probe`). -/
inductive VecProbe where
  | trap
  | ok (width : BitVec 16)
  deriving DecidableEq, Repr, Inhabited

/-- What executing the crypto-extension probe instruction does (44_capability R176, `PLAT.aes_probe`). -/
inductive AesProbe where
  | trap
  | ok
  deriving DecidableEq, Repr, Inhabited

/-- `PLAT`: what the platform answers (44_capability R176). `static = none` is a platform without a static query. -/
structure Plat where
  static : Option StaticQuery
  vecProbe : VecProbe
  aesProbe : AesProbe
  deriving DecidableEq, Repr, Inhabited

/-- What the hash datapath under self-test does with one input block: return a digest (`BACKEND_HASH`, 44_capability R176), or
trap on one of its instructions, which R184 and 60_exceptions R201 allow (log entry 21). -/
inductive BackendAnswer where
  | digest (d : Block)
  | trap
  deriving DecidableEq, Repr, Inhabited

/-- One region of the launch memory: which addresses are backed, and for which kind of access (20_memory R59, R67). -/
structure Region where
  base : Nat
  size : Nat
  readable : Bool
  writable : Bool
  deriving DecidableEq, Repr, Inhabited

/-- The configuration of 00_scope R8, fixed before reset. `NCTX` is the number of contexts the state holds. -/
structure Config where
  /-- the constants store (10_state R36) -/
  constants : Constants
  /-- `TBL1`: hash, 1-round generator, fused engine, self-test (40_tables R106) -/
  tbl1 : Perm64
  /-- `TBL4`: 4-round generator (40_tables R106) -/
  tbl4 : Perm64
  /-- `KAT_INPUT` (44_capability R181) -/
  katInput : Block
  /-- `REF_DIGEST` (44_capability R182) -/
  refDigest : Block
  /-- `ADDR_BITS`, at least 7 -/
  addrBits : Nat
  /-- `BUF_ALIGN`, a power of two in 1..64 -/
  bufAlign : Nat
  /-- `PLAT` -/
  plat : Plat
  /-- `BACKEND_HASH`, as the inputs at which it departs from the conforming engine's hash (log entry 21) -/
  backend : List (Block × BackendAnswer)
  /-- the launch memory (20_memory R59) -/
  launch : List Region
  deriving DecidableEq, Repr

/-! The values 00_scope R8 leaves OPEN without a default: `State.reset` uses these, and nothing in Lean knows what they are
(91 N1 to N5; log entry 2). -/

/-- the round-key constants but the two seeds (91 N1, N2) -/
opaque Config.openConstants : Constants
/-- the two seeds, which 41_hash R132 says are different: their values are those of this permutation at two different places
(91 N1; log entry 29) -/
opaque Config.openSeeds : Equiv.Perm Pair
/-- the entries of `TBL4` (91 N3, 40_tables R105) -/
opaque Config.openTbl4 : Equiv.Perm (Fin 64)
/-- the reference digest (91 N4) -/
opaque Config.openRefDigest : Block
/-- the platform (91 N5) -/
opaque Config.openPlat : Plat
/-- the datapath under self-test (92 D32) -/
opaque Config.openBackend : List (Block × BackendAnswer)
/-- `NCTX - 1` (91 N28) -/
opaque Config.moreContexts : Nat

/-! Free values (log entries 7 to 9): what a register holds where the spec says "unspecified" and the machine goes on. -/

/-- the value of a lane-pair register after a command, a probe trap or the self-test (10_state R23, 60_exceptions R208) -/
opaque Config.freePair : Nat → Pair
/-- the chunk number in `OFF` after a command (10_state R24) -/
opaque Config.freeChunk : Nat → Nat
/-- the number of the platform handler value in `SAVED_HANDLER` outside a probe (93 U8) -/
opaque Config.freeHandler : Nat → Nat

end Sys2Proof
end

