-- ==== Sys2Proof/Syntax.lean ====
section
/-! DEFINITION. The instruction set: the five host-issued commands (30_encoding R80, R82), one constructor per row of
spec/opcode_table.json. A command word has no operand field (30_encoding R81), so no constructor has an argument. -/

namespace Sys2Proof

/-- The commands, in the order of the operation codes of 30_encoding R82. -/
inductive Instr where
  /-- `HASH`, 41_hash R133 -/
  | hash
  /-- `FILL1`, the 1-round generator, 42_generator R147 -/
  | fill1
  /-- `FILL4`, the 4-round generator, 42_generator R152 -/
  | fill4
  /-- `HASHFILL`, the fused engine, 43_fused R166 -/
  | hashFill
  /-- `CAPQ`, the capability query, 44_capability R177 -/
  | capq
  deriving DecidableEq, Repr, Inhabited

end Sys2Proof
end

