-- ==== Sys2Proof/WellFormed.lean ====
section
/-! DEFINITION. Well-formedness: what an instruction and a configuration must satisfy to be one of this core. -/

namespace Sys2Proof

/-- Every command is well-formed: a command word has no operand field, so there is nothing to check (30_encoding R81, R88). -/
def Instr.wf : Instr → Bool
  | .hash | .fill1 | .fill4 | .hashFill | .capq => true

/-- A launch region lies inside the address space of `2^bits` bytes (20_memory R50). -/
def Region.inSpace (bits : Nat) (r : Region) : Bool := r.base + r.size ≤ 2 ^ bits

/-- `HINIT_A` and `HINIT_B` "are different constants" (41_hash R132, 90_conflicts C5). -/
def Config.distinctSeeds (c : Config) : Bool := c.constants.hInitA != c.constants.hInitB

/-- The checks on a configuration (00_scope R8): `ADDR_BITS >= 7`; `BUF_ALIGN` a power of two in 1..64, that is a divisor of
64; the launch memory inside the address space; different seeds of the two hash lane-pairs (41_hash R132). That the tables are
bijections and that widths fit 16 bits is in the types. -/
def Config.wf (c : Config) : Bool :=
  7 ≤ c.addrBits && 64 % c.bufAlign == 0 && c.bufAlign != 0 && c.launch.all (Region.inSpace c.addrBits) && c.distinctSeeds

end Sys2Proof
end

