-- ==== Sys2Proof/Decode.lean ====
section
/-! DEFINITION. The decoder of a command word and, after it, the encoder (30_encoding R81, R82, R87, R88). The words are the
spec's own choice (92 D13; log entry 30). A command word is the value written to `CMD`, a 32-bit register; it is never in
memory, so it has no byte order (20_memory R53 d; log entry 1). -/

namespace Sys2Proof

/-- Why a word is no command (30_encoding R86 items 1 and 2, R87). -/
inductive DecodeError where
  /-- bits 31:4 are not all zero -/
  | reservedBits
  /-- bits 3:0 are 0 or 6..15 -/
  | reservedOp
  deriving DecidableEq, Repr

/-- The field `OP`, bits 3:0 (30_encoding R81). -/
def opField (w : BitVec 32) : Nat := w.toNat % 16

/-- The field `RSV`, bits 31:4 (30_encoding R81). -/
def rsvField (w : BitVec 32) : Nat := w.toNat / 16

/-- The command of an operation code (30_encoding R82). -/
def decodeOp : Nat → Except DecodeError Instr
  | 1 => .ok .hash
  | 2 => .ok .fill1
  | 3 => .ok .fill4
  | 4 => .ok .hashFill
  | 5 => .ok .capq
  | _ => .error .reservedOp

/-- Decode a command word: the reserved bits first, then the operation code (30_encoding R86 items 1 and 2). -/
def decode (w : BitVec 32) : Except DecodeError Instr :=
  if rsvField w ≠ 0 then .error .reservedBits else decodeOp (opField w)

/-- The word of a command (30_encoding R82). -/
def encode : Instr → BitVec 32
  | .hash => 0x00000001#32
  | .fill1 => 0x00000002#32
  | .fill4 => 0x00000003#32
  | .hashFill => 0x00000004#32
  | .capq => 0x00000005#32

/-- The command word of `nbits` table bits `w`, the bits above them zero. -/
def tableWord (nbits w : Nat) : BitVec 32 := BitVec.ofNat 32 (w % 2 ^ nbits)

/-- What the decoder reads from an instruction given in the opcode table's numbering. -/
def decodeTableWord (nbits w : Nat) : Option Instr :=
  match decode (tableWord nbits w) with
  | .ok i => some i
  | .error _ => none

end Sys2Proof
end

