-- ==== Sys2Proof/Machine/Aes.lean ====
section
/-! DEFINITION. The AES round primitives (40_tables R107 to R116). Pure functions: no state, no flag, no exception. The AES
definitions are the spec's own "from general knowledge" passages (93 G1 to G5; log entry 19). -/

namespace Sys2Proof.Machine

/-- Multiplication by `x` in GF(2^8) modulo `0x11b` (40_tables R108). -/
def xtime (a : Byte) : Byte :=
  (a <<< 1) ^^^ (if a.getLsbD 7 then 0x1b#8 else 0#8)

/-- The `xor` of `xtime^k(a)` over the set bits `k` of the low `n` bits of `m` (40_tables R108). -/
def gmulBits : Nat → Byte → Byte → Byte
  | 0, _, _ => 0#8
  | n + 1, a, m => (if m.getLsbD 0 then a else 0#8) ^^^ gmulBits n (xtime a) (m >>> 1)

/-- `mul(a, m)` of 40_tables R108. -/
def gmul (a m : Byte) : Byte := gmulBits 8 a m

/-- `SBOX`, row = high nibble, column = low nibble (40_tables R109). -/
def sboxRows : List (List Byte) := [
  [0x63, 0x7c, 0x77, 0x7b, 0xf2, 0x6b, 0x6f, 0xc5, 0x30, 0x01, 0x67, 0x2b, 0xfe, 0xd7, 0xab, 0x76],
  [0xca, 0x82, 0xc9, 0x7d, 0xfa, 0x59, 0x47, 0xf0, 0xad, 0xd4, 0xa2, 0xaf, 0x9c, 0xa4, 0x72, 0xc0],
  [0xb7, 0xfd, 0x93, 0x26, 0x36, 0x3f, 0xf7, 0xcc, 0x34, 0xa5, 0xe5, 0xf1, 0x71, 0xd8, 0x31, 0x15],
  [0x04, 0xc7, 0x23, 0xc3, 0x18, 0x96, 0x05, 0x9a, 0x07, 0x12, 0x80, 0xe2, 0xeb, 0x27, 0xb2, 0x75],
  [0x09, 0x83, 0x2c, 0x1a, 0x1b, 0x6e, 0x5a, 0xa0, 0x52, 0x3b, 0xd6, 0xb3, 0x29, 0xe3, 0x2f, 0x84],
  [0x53, 0xd1, 0x00, 0xed, 0x20, 0xfc, 0xb1, 0x5b, 0x6a, 0xcb, 0xbe, 0x39, 0x4a, 0x4c, 0x58, 0xcf],
  [0xd0, 0xef, 0xaa, 0xfb, 0x43, 0x4d, 0x33, 0x85, 0x45, 0xf9, 0x02, 0x7f, 0x50, 0x3c, 0x9f, 0xa8],
  [0x51, 0xa3, 0x40, 0x8f, 0x92, 0x9d, 0x38, 0xf5, 0xbc, 0xb6, 0xda, 0x21, 0x10, 0xff, 0xf3, 0xd2],
  [0xcd, 0x0c, 0x13, 0xec, 0x5f, 0x97, 0x44, 0x17, 0xc4, 0xa7, 0x7e, 0x3d, 0x64, 0x5d, 0x19, 0x73],
  [0x60, 0x81, 0x4f, 0xdc, 0x22, 0x2a, 0x90, 0x88, 0x46, 0xee, 0xb8, 0x14, 0xde, 0x5e, 0x0b, 0xdb],
  [0xe0, 0x32, 0x3a, 0x0a, 0x49, 0x06, 0x24, 0x5c, 0xc2, 0xd3, 0xac, 0x62, 0x91, 0x95, 0xe4, 0x79],
  [0xe7, 0xc8, 0x37, 0x6d, 0x8d, 0xd5, 0x4e, 0xa9, 0x6c, 0x56, 0xf4, 0xea, 0x65, 0x7a, 0xae, 0x08],
  [0xba, 0x78, 0x25, 0x2e, 0x1c, 0xa6, 0xb4, 0xc6, 0xe8, 0xdd, 0x74, 0x1f, 0x4b, 0xbd, 0x8b, 0x8a],
  [0x70, 0x3e, 0xb5, 0x66, 0x48, 0x03, 0xf6, 0x0e, 0x61, 0x35, 0x57, 0xb9, 0x86, 0xc1, 0x1d, 0x9e],
  [0xe1, 0xf8, 0x98, 0x11, 0x69, 0xd9, 0x8e, 0x94, 0x9b, 0x1e, 0x87, 0xe9, 0xce, 0x55, 0x28, 0xdf],
  [0x8c, 0xa1, 0x89, 0x0d, 0xbf, 0xe6, 0x42, 0x68, 0x41, 0x99, 0x2d, 0x0f, 0xb0, 0x54, 0xbb, 0x16]]

/-- `INVSBOX`, row = high nibble, column = low nibble (40_tables R110). -/
def invSboxRows : List (List Byte) := [
  [0x52, 0x09, 0x6a, 0xd5, 0x30, 0x36, 0xa5, 0x38, 0xbf, 0x40, 0xa3, 0x9e, 0x81, 0xf3, 0xd7, 0xfb],
  [0x7c, 0xe3, 0x39, 0x82, 0x9b, 0x2f, 0xff, 0x87, 0x34, 0x8e, 0x43, 0x44, 0xc4, 0xde, 0xe9, 0xcb],
  [0x54, 0x7b, 0x94, 0x32, 0xa6, 0xc2, 0x23, 0x3d, 0xee, 0x4c, 0x95, 0x0b, 0x42, 0xfa, 0xc3, 0x4e],
  [0x08, 0x2e, 0xa1, 0x66, 0x28, 0xd9, 0x24, 0xb2, 0x76, 0x5b, 0xa2, 0x49, 0x6d, 0x8b, 0xd1, 0x25],
  [0x72, 0xf8, 0xf6, 0x64, 0x86, 0x68, 0x98, 0x16, 0xd4, 0xa4, 0x5c, 0xcc, 0x5d, 0x65, 0xb6, 0x92],
  [0x6c, 0x70, 0x48, 0x50, 0xfd, 0xed, 0xb9, 0xda, 0x5e, 0x15, 0x46, 0x57, 0xa7, 0x8d, 0x9d, 0x84],
  [0x90, 0xd8, 0xab, 0x00, 0x8c, 0xbc, 0xd3, 0x0a, 0xf7, 0xe4, 0x58, 0x05, 0xb8, 0xb3, 0x45, 0x06],
  [0xd0, 0x2c, 0x1e, 0x8f, 0xca, 0x3f, 0x0f, 0x02, 0xc1, 0xaf, 0xbd, 0x03, 0x01, 0x13, 0x8a, 0x6b],
  [0x3a, 0x91, 0x11, 0x41, 0x4f, 0x67, 0xdc, 0xea, 0x97, 0xf2, 0xcf, 0xce, 0xf0, 0xb4, 0xe6, 0x73],
  [0x96, 0xac, 0x74, 0x22, 0xe7, 0xad, 0x35, 0x85, 0xe2, 0xf9, 0x37, 0xe8, 0x1c, 0x75, 0xdf, 0x6e],
  [0x47, 0xf1, 0x1a, 0x71, 0x1d, 0x29, 0xc5, 0x89, 0x6f, 0xb7, 0x62, 0x0e, 0xaa, 0x18, 0xbe, 0x1b],
  [0xfc, 0x56, 0x3e, 0x4b, 0xc6, 0xd2, 0x79, 0x20, 0x9a, 0xdb, 0xc0, 0xfe, 0x78, 0xcd, 0x5a, 0xf4],
  [0x1f, 0xdd, 0xa8, 0x33, 0x88, 0x07, 0xc7, 0x31, 0xb1, 0x12, 0x10, 0x59, 0x27, 0x80, 0xec, 0x5f],
  [0x60, 0x51, 0x7f, 0xa9, 0x19, 0xb5, 0x4a, 0x0d, 0x2d, 0xe5, 0x7a, 0x9f, 0x93, 0xc9, 0x9c, 0xef],
  [0xa0, 0xe0, 0x3b, 0x4d, 0xae, 0x2a, 0xf5, 0xb0, 0xc8, 0xeb, 0xbb, 0x3c, 0x83, 0x53, 0x99, 0x61],
  [0x17, 0x2b, 0x04, 0x7e, 0xba, 0x77, 0xd6, 0x26, 0xe1, 0x69, 0x14, 0x63, 0x55, 0x21, 0x0c, 0x7d]]

/-- The entry of a 16 by 16 table at a byte. -/
def tableAt (rows : List (List Byte)) (a : Byte) : Byte :=
  (rows.getD (a.toNat / 16) []).getD (a.toNat % 16) 0#8

/-- `SBOX[a]` (40_tables R109). -/
def sbox (a : Byte) : Byte := tableAt sboxRows a

/-- `INVSBOX[a]` (40_tables R110). -/
def invSbox (a : Byte) : Byte := tableAt invSboxRows a

/-- `SubBytes` (40_tables R109). -/
def subBytes (s : Lane) : Lane := s.map sbox

/-- `InvSubBytes` (40_tables R110). -/
def invSubBytes (s : Lane) : Lane := s.map invSbox

/-- `ShiftRows`: byte `r + 4c` comes from row `r`, column `c + r` mod 4 (40_tables R107, R111). -/
def shiftRows (s : Lane) : Lane :=
  Vector.ofFn fun i : Fin 16 => s[i.val % 4 + 4 * ((i.val / 4 + i.val % 4) % 4)]'(by omega)

/-- `InvShiftRows`: byte `r + 4c` comes from row `r`, column `c - r` mod 4 (40_tables R107, R111). -/
def invShiftRows (s : Lane) : Lane :=
  Vector.ofFn fun i : Fin 16 => s[i.val % 4 + 4 * ((i.val / 4 + 4 - i.val % 4) % 4)]'(by omega)

/-- Mix every column of the lane. Each equation of 40_tables R112, and each of R113, is the first one with the bytes of the
column rotated by one more row; so output byte `r` is the sum of the column's bytes from row `r` on, cyclically, times the four
multipliers of the first equation. -/
def mixColumnsBy (m0 m1 m2 m3 : Byte) (s : Lane) : Lane :=
  Vector.ofFn fun i : Fin 16 =>
    let below (j : Nat) : Byte := s[4 * (i.val / 4) + (i.val + j) % 4]'(by omega)
    gmul (below 0) m0 ^^^ gmul (below 1) m1 ^^^ gmul (below 2) m2 ^^^ gmul (below 3) m3

/-- `MixColumns` (40_tables R112). -/
def mixColumns (s : Lane) : Lane := mixColumnsBy 2 3 1 1 s

/-- `InvMixColumns` (40_tables R113). -/
def invMixColumns (s : Lane) : Lane := mixColumnsBy 14 11 13 9 s

/-- `a xor b` on lanes, byte-wise (00_scope R10). -/
def xorLane (a b : Lane) : Lane := Vector.zipWith (· ^^^ ·) a b

/-- `fwd128(s, k)`: substitution, rotation, mixing, then the key (40_tables R114). -/
def fwd128 (s k : Lane) : Lane := xorLane (mixColumns (shiftRows (subBytes s))) k

/-- `inv128(s, m)`: inverse substitution, rotation and mixing with no key, then the post-XOR (40_tables R115). -/
def inv128 (s m : Lane) : Lane := xorLane (invMixColumns (invShiftRows (invSubBytes s))) m

/-- Sub-lane 0 of a pair (00_scope R11). -/
def subLane0 (p : Pair) : Lane := Vector.ofFn fun i : Fin 16 => p[i.val]

/-- Sub-lane 1 of a pair (00_scope R11). -/
def subLane1 (p : Pair) : Lane := Vector.ofFn fun i : Fin 16 => p[16 + i.val]

/-- `x ‖ y` as a pair (00_scope R10, R11). -/
def joinLanes (x y : Lane) : Pair :=
  Vector.ofFn fun i : Fin 32 => if h : i.val < 16 then x[i.val] else y[i.val - 16]

/-- `FWDROUND(P, K)`: each sub-lane independently (40_tables R114, R116). -/
@[irreducible] def fwdRound (p k : Pair) : Pair :=
  joinLanes (fwd128 (subLane0 p) (subLane0 k)) (fwd128 (subLane1 p) (subLane1 k))

/-- `INVROUNDXOR(P, M)`: each sub-lane independently (40_tables R115, R116). -/
@[irreducible] def invRoundXor (p m : Pair) : Pair :=
  joinLanes (inv128 (subLane0 p) (subLane0 m)) (inv128 (subLane1 p) (subLane1 m))

end Sys2Proof.Machine
end

