-- ==== Sys2Proof/Machine/Tables.lean ====
section
/-! DEFINITION. The lane-interleave tables and the two primitives that use them (40_tables R100 to R106). -/

namespace Sys2Proof.Machine

/-- The physical string `A ‖ B` of a lane state (00_scope R14, 40_tables R102, R103). -/
def physical (l : LaneState) : Block :=
  Vector.ofFn fun p : Fin 64 => if h : p.val < 32 then l.a[p.val] else l.b[p.val - 32]

/-- The lane state whose physical string is `phys`. -/
def ofPhysical (phys : Block) : LaneState where
  a := Vector.ofFn fun i : Fin 32 => phys[i.val]
  b := Vector.ofFn fun i : Fin 32 => phys[32 + i.val]

/-- `GATHER(t, blk)`: physical byte `p` is block byte `t[p]` (40_tables R102). -/
@[irreducible] def gather (t : Perm64) (blk : Block) : LaneState :=
  ofPhysical (Vector.ofFn fun p : Fin 64 => blk[t.fwd[p]])

/-- `SCATTER(t, A, B)`: block byte `t[p]` is physical byte `p` (40_tables R103); `t` is a bijection, so block byte `i` is
physical byte `t^-1[i]`. -/
@[irreducible] def scatter (t : Perm64) (l : LaneState) : Block :=
  Vector.ofFn fun i : Fin 64 => (physical l)[t.inv[i]]

/-- `lanes([0, 2, 1, 3])`: it exchanges the block quarters 1 and 2 and is its own inverse (00_scope R11, 40_tables R104). -/
def tbl1Entries : Vector (Fin 64) 64 :=
  Vector.ofFn fun p : Fin 64 =>
    ⟨16 * (#v[0, 2, 1, 3][p.val / 16]'(by omega)) % 64 + p.val % 16, by omega⟩

/-- The default value of `TBL1` (40_tables R104). -/
def tbl1Default : Perm64 where
  fwd := tbl1Entries
  inv := tbl1Entries
  inv_fwd := by decide
  fwd_inv := by decide

end Sys2Proof.Machine
end

