-- ==== Sys2Proof/Machine/Defaults.lean ====
section
/-! DEFINITION. The configuration after reset: the spec's model defaults where 00_scope R8 gives one, the open constants of
Config.lean where it gives none (log entry 2). -/

namespace Sys2Proof.Machine

/-- The default byte image of `KAT_INPUT`: byte `8k` is `k + 1`, every other byte 0 (44_capability R181). -/
def katInputDefault : Block :=
  Vector.ofFn fun i : Fin 64 => if i.val % 8 = 0 then BitVec.ofNat 8 (i.val / 8 + 1) else 0#8

/-- The model default of `ADDR_BITS` (00_scope R8, 92 D7). -/
def addrBitsDefault : Nat := 64

/-- The model default of `BUF_ALIGN` (00_scope R8, 92 D8). -/
def bufAlignDefault : Nat := 64

/-- The constants store `State.reset` holds: all of it open, the two seeds different from each other (41_hash R132; log
entries 2 and 29). -/
def initialConstants : Constants :=
  { Config.openConstants with
    hInitA := Config.openSeeds (Vector.replicate 32 0#8)
    hInitB := Config.openSeeds (Vector.replicate 32 1#8) }

/-- The configuration `State.reset` holds. -/
def initialConfig : Config where
  constants := initialConstants
  tbl1 := tbl1Default
  tbl4 := Perm64.ofEquiv Config.openTbl4
  katInput := katInputDefault
  refDigest := Config.openRefDigest
  addrBits := addrBitsDefault
  bufAlign := bufAlignDefault
  plat := Config.openPlat
  backend := Config.openBackend
  launch := [{ base := 0, size := 2 ^ addrBitsDefault, readable := true, writable := true }]

end Sys2Proof.Machine
end

