-- ==== Sys2Proof/Machine/State.lean ====
section
/-! DEFINITION. The state of the core (10_state R20: "the complete state of the core is the following, and nothing else"), the
reasons a step can stop, and the state after reset (10_state R39, 70_reset R230). -/

namespace Sys2Proof.Machine

/-- Memory: the bytes that differ from what an unlisted address reads as, by rising address (20_memory R50; log entry 10). -/
abbrev Memory := List Host.Cell

/-- `PHASE`, the hash engine's state machine (10_state R25). -/
inductive Phase where
  | idle
  | absorbing
  | finalizing
  deriving DecidableEq, Repr, Inhabited

/-- `DET_STATE` (10_state R34). -/
inductive DetState where
  | uninit
  | probing
  | ready
  deriving DecidableEq, Repr, Inhabited

/-- A handler value (10_state R35): one of the platform's, opaque but for equality, or the detector's own `PROBE_HANDLER`,
"distinct from every value the platform may hold" (44_capability R180). -/
inductive Handler where
  | platform (id : Nat)
  | probe
  deriving DecidableEq, Repr, Inhabited

/-- `CHECKPOINT`: which probe a trap returns to (10_state R35). -/
inductive Checkpoint where
  | none
  | vecProbe
  | aesProbe
  deriving DecidableEq, Repr, Inhabited

/-- The four operand registers (10_state R26). -/
inductive ArgReg where
  | buf
  | len
  | state
  | digest
  deriving DecidableEq, Repr, Inhabited

/-- The private state of one engine context (10_state R20, R28). `OFF` and the operand registers have `ADDR_BITS` bits, a
parameter, so they are numbers below `2^ADDR_BITS` (`Context.Inv` in Safety.lean; log entry 3). -/
structure Context where
  /-- `HA`, the hash accumulator's lane-pair A (10_state R21) -/
  ha : Pair
  /-- `HB` -/
  hb : Pair
  /-- `GA`, the generator state's lane-pair A (10_state R21) -/
  ga : Pair
  /-- `GB` -/
  gb : Pair
  /-- `OFF`, the chunk offset (10_state R24) -/
  off : Nat
  /-- `PHASE` (10_state R25) -/
  phase : Phase
  /-- `CMD`, the word last written (10_state R26) -/
  cmd : BitVec 32
  /-- `ARG_BUF` (10_state R26) -/
  argBuf : Nat
  /-- `ARG_LEN` -/
  argLen : Nat
  /-- `ARG_STATE` -/
  argState : Nat
  /-- `ARG_DIGEST` -/
  argDigest : Nat
  /-- the host has written `ARG_BUF` since reset (30_encoding R83; log entry 6) -/
  bufWritten : Bool
  /-- the host has written `ARG_LEN` since reset -/
  lenWritten : Bool
  /-- the host has written `ARG_STATE` since reset -/
  stateWritten : Bool
  /-- the host has written `ARG_DIGEST` since reset -/
  digestWritten : Bool
  /-- `RES` (10_state R27) -/
  res : BitVec 32
  deriving DecidableEq, Repr

/-- What an agent outside the engine does to the core (00_scope R6, R15; 10_state R26, R35; 70_reset R230). -/
inductive HostAction where
  /-- write an operand register of a context (10_state R26) -/
  | arg (ctx : Nat) (reg : ArgReg) (value : Nat)
  /-- write `CMD` of a context, which executes a command (30_encoding R85). The next `window` actions of the list happen in
  the time the command runs (20_memory R64, 44_capability R189; log entry 12). -/
  | cmd (ctx : Nat) (word : BitVec 32) (window : Nat)
  /-- read one byte of memory (20_memory R63, R64) -/
  | load (addr : Nat)
  /-- write one byte of memory (20_memory R63, R64) -/
  | store (addr : Nat) (value : Byte)
  /-- the platform installs another of its fault handlers (10_state R35) -/
  | handler (id : Nat)
  /-- reset (70_reset R230) -/
  | reset
  deriving DecidableEq, Repr

/-- The whole state. -/
structure State where
  /-- the `NCTX` contexts (10_state R28) -/
  contexts : List Context
  /-- `CAP` (10_state R29) -/
  cap : BitVec 32
  /-- `DET_STATE` (10_state R34) -/
  det : DetState
  /-- `HANDLER` (10_state R35) -/
  handler : Handler
  /-- `SAVED_HANDLER` (10_state R35) -/
  savedHandler : Handler
  /-- `CHECKPOINT` (10_state R35) -/
  checkpoint : Checkpoint
  /-- the constants store, the table store and the other parameters of 00_scope R8: read-only (10_state R36 to R38) -/
  cfg : Config
  /-- memory (20_memory R50) -/
  mem : Memory
  /-- the model's own: the context whose command the current step executes (log entry 1) -/
  cur : Nat
  /-- the model's own: the host actions not yet performed, the next one first (log entry 1) -/
  pending : List HostAction
  /-- the model's own: the index of the next free value (log entry 7) -/
  freeCount : Nat
  deriving DecidableEq, Repr

/-- The machine stops with no fault: the core "reports nothing to the host and never halts", and its one trap is recovered
inside the detector (93 Part 1, 60_exceptions R200, R201; log entry 23). Nobody raises one; safe, since there is none. -/
inductive Fault where
  deriving DecidableEq, Repr

/-- Why the model gives a step no meaning. The first twelve are the closed list of 60_exceptions R203, in its order. All are
safe: the model stops where hardware may do anything. -/
inductive Refusal where
  /-- code 1, raised by `issue` on a word with a non-zero bit in 31:4 (30_encoding R87) -/
  | reservedBits
  /-- code 2, raised by `issue` on an operation code 0 or 6..15 (30_encoding R87) -/
  | reservedOp
  /-- code 3, raised by admission of a buffer command while `DET_STATE` is not `READY` (30_encoding R86 item 4), and by `issue`
  when a buffer command overlaps the detector's run (log entry 13) -/
  | noCapabilityRecord
  /-- code 4, raised by admission of a buffer command with `CAP.AES = 0` (30_encoding R86 item 5) -/
  | notCapable
  /-- code 5, raised by admission when an operand register the command reads was never written, which the spec refuses by this
  name (30_encoding R83, R86 item 6; 60_exceptions R203; 93 U7) -/
  | unwrittenOperand
  /-- code 6, raised by admission when `ARG_LEN mod 64` is not 0 (60_exceptions R202) -/
  | sizeNotMultipleOf64
  /-- code 7, raised by admission when a buffer passes the top of the address space (20_memory R57) -/
  | addressRange
  /-- code 8, raised by admission when a base address is not a multiple of `BUF_ALIGN` (20_memory R58) -/
  | misaligned
  /-- code 9, raised by admission when two regions of the command overlap (20_memory R59) -/
  | overlap
  /-- code 10, raised by admission when the launch memory does not back a byte of a region (20_memory R59) -/
  | notBacked
  /-- code 11, raised by `CAPQ` while `DET_STATE = PROBING`, and by `issue` when another CAPQ or a handler change overlaps the
  detector's run (44_capability R189, 70_reset R241; log entry 13) -/
  | concurrentDetect
  /-- code 12, raised by `issue` when an overlapping action touches the command's footprint (20_memory R64) -/
  | race
  /-- the model's own, raised by a command or a register write whose context does not exist (10_state R28; log entry 15) -/
  | noSuchContext
  /-- the model's own, raised by `issue` when the overlapping actions use the context that is busy (30_encoding R85; log
  entry 14) -/
  | contextBusy
  /-- the model's own, raised by `issue` on a reset while a command runs, which the spec does not model (93 U17; log
  entry 14) -/
  | resetDuringCommand
  /-- the model's own, raised by a register write of a value the register cannot hold (10_state R26; log entry 15) -/
  | valueTooWide
  /-- the model's own, raised by a host access to a byte the launch memory does not back, which is "the platform's affair"
  (20_memory R67; log entry 15) -/
  | hostAccessNotBacked
  /-- an instruction without a meaning: raised by none -/
  | notModelled (mnemonic : String)
  deriving DecidableEq, Repr

/-- A context after reset: `PHASE = IDLE`, no operand register written (10_state R39); the values the spec leaves unspecified
are zeros, DESIGN CHOICE (log entry 4). -/
def Context.reset : Context where
  ha := Vector.replicate 32 0#8
  hb := Vector.replicate 32 0#8
  ga := Vector.replicate 32 0#8
  gb := Vector.replicate 32 0#8
  off := 0
  phase := .idle
  cmd := 0#32
  argBuf := 0
  argLen := 0
  argState := 0
  argDigest := 0
  bufWritten := false
  lenWritten := false
  stateWritten := false
  digestWritten := false
  res := 0#32

/-- The machine right after reset (10_state R39, 70_reset R230): `DET_STATE = UNINIT`, `CHECKPOINT = NONE`, `NCTX` contexts,
nothing pending (70_reset R231). -/
def State.reset : State where
  contexts := List.replicate (Config.moreContexts + 1) Context.reset
  cap := 0#32
  det := .uninit
  handler := .platform 0
  savedHandler := .platform 0
  checkpoint := .none
  cfg := initialConfig
  mem := []
  cur := 0
  pending := []
  freeCount := 0

end Sys2Proof.Machine
end

