-- ==== Sys2Proof/Machine/Ops.lean ====
section
/-! DEFINITION. The named operations over memory, registers and a running command, and the one exception of the core: trap
entry (60_exceptions R208) and trap return (R209). -/

namespace Sys2Proof.Machine

/-! ### Memory -/

/-- What an address no entry lists reads as (log entry 10). -/
def Memory.unlisted : Byte := 0#8

/-- The canonical form from address `lo` up: addresses strictly rising, no entry equal to an unlisted byte. -/
def Memory.wfFrom : Nat → Memory → Bool
  | _, [] => true
  | lo, (a, b) :: m => lo ≤ a && b != Memory.unlisted && Memory.wfFrom (a + 1) m

/-- The canonical form of memory. -/
def Memory.wf (m : Memory) : Bool := Memory.wfFrom 0 m

/-- One byte of memory. -/
def Memory.read : Memory → Nat → Byte
  | [], _ => Memory.unlisted
  | (k, v) :: m, a => if k = a then v else Memory.read m a

/-- Put a byte before `m`, unless it is what an unlisted address reads as. -/
def Memory.cons (a : Nat) (b : Byte) (m : Memory) : Memory :=
  if b = Memory.unlisted then m else (a, b) :: m

/-- Store one byte, keeping the canonical form. -/
def Memory.write : Memory → Nat → Byte → Memory
  | [], a, b => Memory.cons a b []
  | (k, v) :: m, a, b =>
    if a < k then Memory.cons a b ((k, v) :: m)
    else if a = k then Memory.cons a b m
    else (k, v) :: Memory.write m a b

/-- Store a byte string from address `a` up (20_memory R55). -/
def Memory.writeBytes : Memory → Nat → List Byte → Memory
  | m, _, [] => m
  | m, a, b :: bs => Memory.writeBytes (Memory.write m a b) (a + 1) bs

/-- `MemRead(a, 64)`: byte `i` is the byte at `a + i`; no side effect (20_memory R53 a, R54). -/
@[irreducible] def Memory.readBlock (m : Memory) (a : Nat) : Block :=
  Vector.ofFn fun i : Fin 64 => Memory.read m (a + i.val)

/-- `MemWrite(a, 64, v)`: the byte at `a + i` becomes `v[i]`, and nothing else changes (20_memory R55). -/
@[irreducible] def Memory.writeBlock (m : Memory) (a : Nat) (v : Block) : Memory :=
  Memory.writeBytes m a v.toList

/-- The `n` consecutive blocks from `base` up. -/
def Memory.blocks (m : Memory) (base n : Nat) : List Block :=
  (List.range n).map fun k => Memory.readBlock m (base + 64 * k)

/-! ### The launch memory (20_memory R59) -/

/-- The region contains the address. -/
def Region.contains (r : Region) (a : Nat) : Bool := r.base ≤ a && a < r.base + r.size

/-- The launch memory admits a read of the byte at `a`. -/
def backsRead (cfg : Config) (a : Nat) : Bool := cfg.launch.any fun r => r.readable && Region.contains r a

/-- The launch memory admits a write of the byte at `a`. -/
def backsWrite (cfg : Config) (a : Nat) : Bool := cfg.launch.any fun r => r.writable && Region.contains r a

/-! ### Lane-pair registers -/

/-- The hash accumulator `(HA, HB)` (10_state R21). -/
def Context.hashLanes (c : Context) : LaneState := { a := c.ha, b := c.hb }

/-- The generator lane state `(GA, GB)` (10_state R21). -/
def Context.genLanes (c : Context) : LaneState := { a := c.ga, b := c.gb }

/-- `(HA, HB) <- l`. -/
def Context.setHash (c : Context) (l : LaneState) : Context := { c with ha := l.a, hb := l.b }

/-- `(GA, GB) <- l`. -/
def Context.setGen (c : Context) (l : LaneState) : Context := { c with ga := l.a, gb := l.b }

/-- `PHASE <- p` (10_state R25). -/
def Context.setPhase (c : Context) (p : Phase) : Context := { c with phase := p }

/-- The bits of a lane-pair register: byte `i` in bits `8i + 7 : 8i` (10_state R21). -/
def pairBits (p : Pair) : BitVec 256 :=
  BitVec.ofNat 256 ((List.range 32).foldl (fun n i => n + (p.toList.getD i 0#8).toNat * 2 ^ (8 * i)) 0)

/-! ### A running command -/

/-- One access of a running command to a 64-byte block (20_memory R60 to R62). -/
inductive Access where
  | read (addr : Nat)
  | write (addr : Nat)
  deriving DecidableEq, Repr

/-- What a running command touches: the registers of its context, memory, and the accesses made so far in the order made
(20_memory R62). -/
structure Engine where
  ctx : Context
  mem : Memory
  trace : List Access
  deriving DecidableEq, Repr

/-- `MemRead(a, 64)` by a running command: the block, and the access recorded. -/
def Engine.read64 (e : Engine) (a : Nat) : Block × Engine :=
  (Memory.readBlock e.mem a, { e with trace := e.trace ++ [.read a] })

/-- `MemWrite(a, 64, v)` by a running command, the access recorded. -/
def Engine.write64 (e : Engine) (a : Nat) (v : Block) : Engine :=
  { e with mem := Memory.writeBlock e.mem a v, trace := e.trace ++ [.write a] }

/-- Change the registers of the running context. -/
def Engine.withCtx (e : Engine) (c : Context) : Engine := { e with ctx := c }

/-- `OFF <- 0`: how every buffer command starts (10_state R24). -/
def Engine.start (e : Engine) : Engine := e.withCtx { e.ctx with off := 0 }

/-- `OFF <- OFF + 64` (10_state R24). -/
def Engine.advance (e : Engine) : Engine := e.withCtx { e.ctx with off := e.ctx.off + 64 }

/-- The address of the current chunk, `ARG_BUF + OFF` (10_state R24). -/
def Engine.chunkAddr (e : Engine) : Nat := e.ctx.argBuf + e.ctx.off

/-- The number of chunks a command processes, `ARG_LEN / 64` (30_encoding R84, 70_reset R243). -/
def Context.chunks (c : Context) : Nat := c.argLen / 64

/-! ### Free values (10_state R23, R24; 93 U8, U9) -/

/-- A free value of `OFF`: some multiple of 64 that fits the register (10_state R24; log entry 7). -/
def freeOff (cfg : Config) (n : Nat) : Nat := (64 * Config.freeChunk n) % 2 ^ cfg.addrBits

/-- The registers "unspecified" once a command has completed hold free values: `HA`, `HB`, `GA`, `GB` (10_state R23) and
`OFF` (10_state R24). -/
def Context.forget (cfg : Config) (n : Nat) (c : Context) : Context :=
  { c with
    ha := Config.freePair n
    hb := Config.freePair (n + 1)
    ga := Config.freePair (n + 2)
    gb := Config.freePair (n + 3)
    off := freeOff cfg (n + 4) }

/-- Put the registers of the current context back. -/
def State.setCtx (s : State) (c : Context) : State := { s with contexts := s.contexts.set s.cur c }

/-- A buffer command is complete: its memory is visible, its scratch registers are unspecified (20_memory R63, 10_state R23). -/
def State.retire (s : State) (e : Engine) : State :=
  { s.setCtx (e.ctx.forget s.cfg s.freeCount) with mem := e.mem, freeCount := s.freeCount + 5 }

/-- `HA` and `HB` of the issuing context become unspecified (60_exceptions R208; 93 U8, U9; log entry 9). -/
def State.forgetHash (s : State) : State :=
  match s.contexts[s.cur]? with
  | none => s
  | some c =>
    { s.setCtx { c with ha := Config.freePair s.freeCount, hb := Config.freePair (s.freeCount + 1) } with
      freeCount := s.freeCount + 2 }

/-! ### The exception -/

/-- The causes of an exception: one (60_exceptions R201). -/
inductive TrapCause where
  | illegalInstruction
  deriving DecidableEq, Repr

/-- The cause code, `ILLEGAL_INSTRUCTION = 1` (60_exceptions R201). -/
def TrapCause.code : TrapCause → Nat
  | .illegalInstruction => 1

/-- What a guarded probe body ends with (44_capability R180, R183, R184). -/
inductive ProbeOutcome where
  | trapped (cause : TrapCause)
  | ok (width : BitVec 16)
  | pass
  | mismatch
  deriving DecidableEq, Repr

/-- Enter the guarded region of a probe: save and replace the handler, then set the checkpoint (44_capability R180, steps 1
and 2). -/
def enterProbe (which : Checkpoint) (s : State) : State :=
  { s with savedHandler := s.handler, handler := .probe, checkpoint := which }

/-- `raise ProbeTrap`: trap entry. The body is abandoned, nothing is saved, `HA` and `HB` of the issuing context become
unspecified, and control goes to the checkpoint with the outcome "trapped" (60_exceptions R208). -/
def raiseProbeTrap (s : State) : ProbeOutcome × State := (.trapped .illegalInstruction, s.forgetHash)

/-- Leave the guarded region, trapped or not: restore the handler, clear the checkpoint (44_capability R180 step 4,
60_exceptions R209). `SAVED_HANDLER` is unspecified from here on (93 U8; log entry 8). -/
def leaveProbe (s : State) : State :=
  { s with
    handler := s.savedHandler
    checkpoint := .none
    savedHandler := .platform (Config.freeHandler s.freeCount)
    freeCount := s.freeCount + 1 }

/-- `Guarded(which, body)` (44_capability R180). -/
def guarded (which : Checkpoint) (body : State → ProbeOutcome × State) (s : State) : ProbeOutcome × State :=
  let r := body (enterProbe which s)
  (r.1, leaveProbe r.2)

end Sys2Proof.Machine
end

