-- ==== Sys2Proof/Machine/Flags.lean ====
section
/-! DEFINITION. The capability record `CAP`, "the only flag-like state" of the core (44_capability R177): its layout and how
the detector computes it (10_state R29 to R33). Commands return no status and there are no condition codes (10_state R27). -/

namespace Sys2Proof.Machine

/-- A capability record: `AES` bit 0, `WIDE_SIMD` bit 1, bits 15:2 zero, `VEC_WIDTH` bits 31:16 (10_state R29, R33). -/
def capRecord (aes wide : Bool) (width : BitVec 16) : BitVec 32 :=
  width ++ 0#14 ++ BitVec.ofBool wide ++ BitVec.ofBool aes

/-- `CAP.AES` (10_state R30). -/
def capAes (cap : BitVec 32) : Bool := cap.getLsbD 0

/-- `CAP.WIDE_SIMD` (10_state R31). -/
def capWide (cap : BitVec 32) : Bool := cap.getLsbD 1

/-- `CAP[15:2]`, reserved (10_state R33). -/
def capReserved (cap : BitVec 32) : BitVec 14 := cap.extractLsb' 2 14

/-- `CAP.VEC_WIDTH`, in bits (10_state R32). -/
def capWidth (cap : BitVec 32) : BitVec 16 := cap.extractLsb' 16 16

/-- The record of a static query: the width is 0 without the vector extension (44_capability R178, R179). -/
def capOfStatic (q : StaticQuery) : BitVec 32 :=
  capRecord q.aes q.wideSimd (if q.wideSimd then q.vecWidth else 0#16)

/-- The record of the two probes' outcomes (44_capability R178). -/
def capOfProbes (vec aes : ProbeOutcome) : BitVec 32 :=
  match vec with
  | .ok w => capRecord (aes == .pass) true w
  | _ => capRecord (aes == .pass) false 0#16

end Sys2Proof.Machine
end

