-- ==== Sys2Proof/Machine/Operands.lean ====
section
/-! DEFINITION. Operand registers, the regions a command uses, its footprint, and admission (30_encoding R83, R84, R86;
20_memory R56 to R59, R61). -/

namespace Sys2Proof.Machine

/-! ### Operand registers -/

/-- The operand registers a command reads (30_encoding R83). -/
def operands : Instr → List ArgReg
  | .hash => [.buf, .len, .digest]
  | .fill1 => [.buf, .len, .state]
  | .fill4 => [.buf, .len, .state]
  | .hashFill => [.buf, .len, .state, .digest]
  | .capq => []

/-- The value of an operand register: a byte address or a count of bytes, unscaled (30_encoding R84). -/
def Context.arg (c : Context) : ArgReg → Nat
  | .buf => c.argBuf
  | .len => c.argLen
  | .state => c.argState
  | .digest => c.argDigest

/-- The host has written the register since reset (30_encoding R83). -/
def Context.argWritten (c : Context) : ArgReg → Bool
  | .buf => c.bufWritten
  | .len => c.lenWritten
  | .state => c.stateWritten
  | .digest => c.digestWritten

/-- The host writes an operand register (10_state R26). -/
def Context.setArg (c : Context) (v : Nat) : ArgReg → Context
  | .buf => { c with argBuf := v, bufWritten := true }
  | .len => { c with argLen := v, lenWritten := true }
  | .state => { c with argState := v, stateWritten := true }
  | .digest => { c with argDigest := v, digestWritten := true }

/-! ### Regions and footprints -/

/-- `size` bytes from address `base`. -/
structure Span where
  base : Nat
  size : Nat
  deriving DecidableEq, Repr

/-- The input buffer, output buffer or scratchpad (20_memory R51). -/
def Context.bufSpan (c : Context) : Span := { base := c.argBuf, size := c.argLen }

/-- The generator state buffer (20_memory R51). -/
def Context.stateSpan (c : Context) : Span := { base := c.argState, size := 64 }

/-- The digest buffer (20_memory R51). -/
def Context.digestSpan (c : Context) : Span := { base := c.argDigest, size := 64 }

/-- The regions a command uses (20_memory R51, R59). -/
def regions (i : Instr) (c : Context) : List Span :=
  match i with
  | .hash => [c.bufSpan, c.digestSpan]
  | .fill1 => [c.bufSpan, c.stateSpan]
  | .fill4 => [c.bufSpan, c.stateSpan]
  | .hashFill => [c.bufSpan, c.stateSpan, c.digestSpan]
  | .capq => []

/-- The addresses a command reads (20_memory R61). -/
def readSpans (i : Instr) (c : Context) : List Span :=
  match i with
  | .hash => [c.bufSpan]
  | .fill1 => [c.stateSpan]
  | .fill4 => [c.stateSpan]
  | .hashFill => [c.bufSpan, c.stateSpan]
  | .capq => []

/-- The addresses a command writes (20_memory R61). -/
def writeSpans (i : Instr) (c : Context) : List Span :=
  match i with
  | .hash => [c.digestSpan]
  | .fill1 => [c.bufSpan, c.stateSpan]
  | .fill4 => [c.bufSpan]
  | .hashFill => [c.bufSpan, c.stateSpan, c.digestSpan]
  | .capq => []

/-- The spans share an address; an empty span shares none (20_memory R59). -/
def Span.meets (x y : Span) : Bool :=
  x.size != 0 && y.size != 0 && x.base < y.base + y.size && y.base < x.base + x.size

/-- Some span of one list shares an address with some span of the other. -/
def anyMeet (xs ys : List Span) : Bool := xs.any fun x => ys.any x.meets

/-- Two spans of the list share an address. -/
def overlapping : List Span → Bool
  | [] => false
  | x :: xs => xs.any x.meets || overlapping xs

/-- Every address of the span satisfies `p`. -/
def Span.all (x : Span) (p : Nat → Bool) : Bool := (List.range x.size).all fun i => p (x.base + i)

/-! ### Admission -/

/-- The reason of the first check that fails. -/
def firstRefusal : List (Bool × Refusal) → Option Refusal
  | [] => none
  | (failed, r) :: rest => if failed then some r else firstRefusal rest

/-- Some operand register the command reads was never written since reset: the spec refuses such a command (30_encoding R83, R86
item 6; 60_exceptions R203 code 5; 93 U7). -/
def someUnwritten (i : Instr) (c : Context) : Bool := (operands i).any fun r => !c.argWritten r

/-- A region passes the top of the address space (20_memory R57). -/
def outOfRange (cfg : Config) (x : Span) : Bool := 2 ^ cfg.addrBits < x.base + x.size

/-- The base of a region is not a multiple of `BUF_ALIGN` (20_memory R58). -/
def notAligned (cfg : Config) (x : Span) : Bool := x.base % cfg.bufAlign != 0

/-- Some byte of a region is not backed for the access the command makes (20_memory R59). -/
def someUnbacked (cfg : Config) (i : Instr) (c : Context) : Bool :=
  !((readSpans i c).all fun x => x.all (backsRead cfg)) || !((writeSpans i c).all fun x => x.all (backsWrite cfg))

/-- Admission of a buffer command: 30_encoding R86 items 4 to 8, in order. -/
def admission (i : Instr) (s : State) (c : Context) : Option Refusal :=
  firstRefusal [
    (s.det != .ready, .noCapabilityRecord),
    (!capAes s.cap, .notCapable),
    (someUnwritten i c, .unwrittenOperand),
    (c.argLen % 64 != 0, .sizeNotMultipleOf64),
    ((regions i c).any (outOfRange s.cfg), .addressRange),
    ((regions i c).any (notAligned s.cfg), .misaligned),
    (overlapping (regions i c), .overlap),
    (someUnbacked s.cfg i c, .notBacked)]

/-- Run an admitted buffer command on the current context: admission, then the command to completion (30_encoding R85). -/
def runBuffer (i : Instr) (body : Config → Engine → Engine) (s : State) : Host.Outcome State Fault Refusal :=
  match s.contexts[s.cur]? with
  | none => .refused .noSuchContext
  | some c =>
    match admission i s c with
    | some r => .refused r
    | none => .next (s.retire (body s.cfg { ctx := c, mem := s.mem, trace := [] }))

/-- The code of a refusal in the closed list of 60_exceptions R203; the model's own reasons have none. -/
def Refusal.code : Refusal → Option Nat
  | .reservedBits => some 1
  | .reservedOp => some 2
  | .noCapabilityRecord => some 3
  | .notCapable => some 4
  | .unwrittenOperand => some 5
  | .sizeNotMultipleOf64 => some 6
  | .addressRange => some 7
  | .misaligned => some 8
  | .overlap => some 9
  | .notBacked => some 10
  | .concurrentDetect => some 11
  | .race => some 12
  | _ => none

end Sys2Proof.Machine
end

