-- ==== Sys2Proof/Machine/Hash.lean ====
section
/-! DEFINITION. The hash engine and the command HASH (41_hash R130 to R142). -/

namespace Sys2Proof.Machine

/-- `HashInit()` (41_hash R132). -/
def hashInit (cfg : Config) : LaneState := { a := cfg.constants.hInitA, b := cfg.constants.hInitB }

/-- `HashAbsorb`: pair A is the forward arm with the gathered half as key, pair B the inverse arm with the gathered half as
mix (41_hash R134, R135). -/
def hashAbsorb (cfg : Config) (h : LaneState) (blk : Block) : LaneState :=
  let g := gather cfg.tbl1 blk
  { a := fwdRound h.a g.a, b := invRoundXor h.b g.b }

/-- One whitening round: the same key to both pairs, each keeping its arm (41_hash R136). -/
def whiten (h : LaneState) (k : Pair) : LaneState := { a := fwdRound h.a k, b := invRoundXor h.b k }

/-- `HashFinalRounds`: exactly two rounds, `XK[0]` then `XK[1]` (41_hash R136). -/
def hashFinalRounds (cfg : Config) (h : LaneState) : LaneState :=
  whiten (whiten h cfg.constants.xk[0]) cfg.constants.xk[1]

/-- `HashFinal(S)` (41_hash R133, R137). -/
def hashFinal (cfg : Config) (h : LaneState) : Block := scatter cfg.tbl1 (hashFinalRounds cfg h)

/-- `Hash(buf)` of the 64-byte blocks of `buf` in order (41_hash R133). -/
def hashOf (cfg : Config) (blks : List Block) : Block :=
  hashFinal cfg (blks.foldl (hashAbsorb cfg) (hashInit cfg))

/-- Step 1 of HASH: `PHASE <- ABSORBING`, the accumulator starts from the fixed state (41_hash R133). -/
def hashBegin (cfg : Config) (e : Engine) : Engine :=
  e.withCtx ((e.ctx.setPhase .absorbing).setHash (hashInit cfg))

/-- Absorb the current chunk (41_hash R133 step 2). -/
def absorbChunk (cfg : Config) (e : Engine) : Engine :=
  let r := e.read64 e.chunkAddr
  r.2.withCtx (e.ctx.setHash (hashAbsorb cfg e.ctx.hashLanes r.1))

/-- Step 2 of HASH: the chunks in ascending order (41_hash R133, R141). -/
def hashLoop (cfg : Config) : Nat → Engine → Engine
  | 0, e => e
  | n + 1, e => hashLoop cfg n (absorbChunk cfg e).advance

/-- Step 3 of HASH: `PHASE <- FINALIZING`, the whitening rounds (41_hash R133). -/
def hashFinish (cfg : Config) (e : Engine) : Engine :=
  e.withCtx ((e.ctx.setPhase .finalizing).setHash (hashFinalRounds cfg e.ctx.hashLanes))

/-- Step 4 of HASH: the digest to `ARG_DIGEST`, `PHASE <- IDLE` (41_hash R133, R137). -/
def hashEmit (cfg : Config) (e : Engine) : Engine :=
  (e.write64 e.ctx.argDigest (scatter cfg.tbl1 e.ctx.hashLanes)).withCtx (e.ctx.setPhase .idle)

/-- The command HASH on an engine (41_hash R133). -/
def hashCommand (cfg : Config) (e : Engine) : Engine :=
  hashEmit cfg (hashFinish cfg (hashLoop cfg e.ctx.chunks (hashBegin cfg e.start)))

/-- HASH (41_hash R133). -/
def execHash (s : State) : Host.Outcome State Fault Refusal := runBuffer .hash hashCommand s

end Sys2Proof.Machine
end

