-- ==== Sys2Proof/Machine/Detector.lean ====
section
/-! DEFINITION. The capability detector and the command CAPQ (44_capability R175 to R191). -/

namespace Sys2Proof.Machine

/-- The listed departure of the datapath under self-test at an input, if there is one (log entry 21). -/
def backendLookup : List (Block × BackendAnswer) → Block → Option BackendAnswer
  | [], _ => none
  | (b, r) :: rest, blk => if b = blk then some r else backendLookup rest blk

/-- `BACKEND_HASH`: the hash of the one block, but where the configuration says that this datapath departs from it
(44_capability R176). -/
def backendAnswer (cfg : Config) (blk : Block) : BackendAnswer :=
  match backendLookup cfg.backend blk with
  | some r => r
  | none => .digest (hashOf cfg [blk])

/-- `VecProbeBody()` (44_capability R183). -/
def vecProbeBody (s : State) : ProbeOutcome × State :=
  match s.cfg.plat.vecProbe with
  | .trap => raiseProbeTrap s
  | .ok w => (.ok w, s)

/-- `SelfTest()`: the datapath's digest of `KAT_INPUT` against `REF_DIGEST`, byte for byte. It uses `HA`, `HB` of the issuing
context and no memory (44_capability R182), and an instruction of it may trap (R184). -/
def selfTest (s : State) : ProbeOutcome × State :=
  match backendAnswer s.cfg s.cfg.katInput with
  | .trap => raiseProbeTrap s
  | .digest d => (if d = s.cfg.refDigest then .pass else .mismatch, s.forgetHash)

/-- `AesProbeBody()` (44_capability R184). -/
def aesProbeBody (s : State) : ProbeOutcome × State :=
  match s.cfg.plat.aesProbe with
  | .trap => raiseProbeTrap s
  | .ok => selfTest s

/-- `CAP` gets its final value, then `DET_STATE <- READY` (44_capability R178, 20_memory R65). -/
def publishCap (cap : BitVec 32) (s : State) : State := { s with cap := cap, det := .ready }

/-- `Detect()`: the static answer, or the two independent probes, the vector probe first (44_capability R178, R179). -/
def detect (s : State) : State :=
  let s := { s with det := .probing }
  match s.cfg.plat.static with
  | some q => publishCap (capOfStatic q) s
  | none =>
    let v := guarded .vecProbe vecProbeBody s
    let a := guarded .aesProbe aesProbeBody v.2
    publishCap (capOfProbes v.1 a.1) a.2

/-- `RES <- CAP` of the issuing context (44_capability R177 step 2). -/
def publishRes (s : State) : State :=
  match s.contexts[s.cur]? with
  | none => s
  | some c => s.setCtx { c with res := s.cap }

/-- CAPQ (44_capability R177). While the detector runs, a second CAPQ has no meaning (R189, 93 U6). -/
def execCapq (s : State) : Host.Outcome State Fault Refusal :=
  match s.contexts[s.cur]? with
  | none => .refused .noSuchContext
  | some _ =>
    match s.det with
    | .uninit => .next (publishRes (detect s))
    | .probing => .refused .concurrentDetect
    | .ready => .next (publishRes s)

end Sys2Proof.Machine
end

