-- ==== Sys2Proof/Machine/Generator.lean ====
section
/-! DEFINITION. The generator engine and the commands FILL1 and FILL4 (42_generator R145 to R160). -/

namespace Sys2Proof.Machine

/-- `GenLoad(t)`: the state buffer through the engine's table into `(GA, GB)` (42_generator R146). -/
def genLoad (t : Perm64) (e : Engine) : Engine :=
  let r := e.read64 e.ctx.argState
  r.2.withCtx (e.ctx.setGen (gather t r.1))

/-- `GenStore(t)`: `(GA, GB)` through the engine's table into the state buffer (42_generator R146, R149). -/
def genStore (t : Perm64) (e : Engine) : Engine :=
  e.write64 e.ctx.argState (scatter t e.ctx.genLanes)

/-- One generator round: pair A is the inverse arm, pair B the forward arm (42_generator R148, R153). -/
def genRound (keyA keyB : Pair) (g : LaneState) : LaneState :=
  { a := invRoundXor g.a keyA, b := fwdRound g.b keyB }

/-- `Gen1Step` (42_generator R148). -/
def gen1Step (cfg : Config) (g : LaneState) : LaneState := genRound cfg.constants.g1kA cfg.constants.g1kB g

/-- `Gen4Step`: four rounds in index order, key pair `r` in round `r` (42_generator R153). -/
def gen4Step (cfg : Config) (g : LaneState) : LaneState :=
  let kA := cfg.constants.g4kA
  let kB := cfg.constants.g4kB
  genRound kA[3] kB[3] (genRound kA[2] kB[2] (genRound kA[1] kB[1] (genRound kA[0] kB[0] g)))

/-- Advance the generator, then write the new state as the current chunk (42_generator R147, R148, R152). -/
def fillChunk (next : LaneState → LaneState) (t : Perm64) (e : Engine) : Engine :=
  let g := next e.ctx.genLanes
  (e.write64 e.chunkAddr (scatter t g)).withCtx (e.ctx.setGen g)

/-- Step 2 of both commands: the chunks in ascending order (42_generator R147, R152). -/
def fillLoop (next : LaneState → LaneState) (t : Perm64) : Nat → Engine → Engine
  | 0, e => e
  | n + 1, e => fillLoop next t n (fillChunk next t e).advance

/-- The command FILL1 on an engine (42_generator R147). -/
def fill1Command (cfg : Config) (e : Engine) : Engine :=
  genStore cfg.tbl1 (fillLoop (gen1Step cfg) cfg.tbl1 e.ctx.chunks (genLoad cfg.tbl1 e.start))

/-- The command FILL4 on an engine: the state buffer is not written (42_generator R152, R154). -/
def fill4Command (cfg : Config) (e : Engine) : Engine :=
  fillLoop (gen4Step cfg) cfg.tbl4 e.ctx.chunks (genLoad cfg.tbl4 e.start)

/-- FILL1 (42_generator R147). -/
def execFill1 (s : State) : Host.Outcome State Fault Refusal := runBuffer .fill1 fill1Command s

/-- FILL4 (42_generator R152). -/
def execFill4 (s : State) : Host.Outcome State Fault Refusal := runBuffer .fill4 fill4Command s

/-! ### The commands as pure functions of the state bytes (42_generator R147, R152) -/

/-- `S_k`: the lane state after `k` steps from the loaded state bytes. -/
def genState (next : LaneState → LaneState) (t : Perm64) (st : Block) : Nat → LaneState
  | 0 => gather t st
  | k + 1 => next (genState next t st k)

/-- `Fill1Out(st, 64 m)` as its chunks: `SCATTER(TBL1, S_1)` to `SCATTER(TBL1, S_m)` (42_generator R147). -/
def fill1Out (cfg : Config) (st : Block) (m : Nat) : List Block :=
  (List.range m).map fun k => scatter cfg.tbl1 (genState (gen1Step cfg) cfg.tbl1 st (k + 1))

/-- `Fill1State(st, 64 m)` (42_generator R147). -/
def fill1State (cfg : Config) (st : Block) (m : Nat) : Block :=
  scatter cfg.tbl1 (genState (gen1Step cfg) cfg.tbl1 st m)

/-- `Fill4Out(st, 64 m)` as its chunks (42_generator R152). -/
def fill4Out (cfg : Config) (st : Block) (m : Nat) : List Block :=
  (List.range m).map fun k => scatter cfg.tbl4 (genState (gen4Step cfg) cfg.tbl4 st (k + 1))

end Sys2Proof.Machine
end

