-- ==== Sys2Proof/Machine/Fused.lean ====
section
/-! DEFINITION. The fused hash+fill engine and the command HASHFILL (43_fused R165 to R172). -/

namespace Sys2Proof.Machine

/-- Step 2 of HASHFILL: per chunk, absorb the old contents, then overwrite them with the next generator chunk (43_fused R166,
R167). -/
def fusedLoop (cfg : Config) : Nat → Engine → Engine
  | 0, e => e
  | n + 1, e => fusedLoop cfg n (fillChunk (gen1Step cfg) cfg.tbl1 (absorbChunk cfg e)).advance

/-- The command HASHFILL on an engine (43_fused R166). -/
def hashFillCommand (cfg : Config) (e : Engine) : Engine :=
  let begun := genLoad cfg.tbl1 (hashBegin cfg e.start)
  let looped := fusedLoop cfg e.ctx.chunks begun
  hashEmit cfg (genStore cfg.tbl1 (hashFinish cfg looped))

/-- HASHFILL (43_fused R166). -/
def execHashFill (s : State) : Host.Outcome State Fault Refusal := runBuffer .hashFill hashFillCommand s

end Sys2Proof.Machine
end

