-- ==== Sys2Proof/Machine/Dispatch.lean ====
section
/-! DEFINITION. One arm per command. -/

namespace Sys2Proof.Machine

/-- The meaning of a command on the current context (30_encoding R82, R85). -/
def exec (i : Instr) (s : State) : Host.Outcome State Fault Refusal :=
  match i with
  | .hash => Sys2Proof.Machine.execHash s
  | .fill1 => Sys2Proof.Machine.execFill1 s
  | .fill4 => Sys2Proof.Machine.execFill4 s
  | .hashFill => Sys2Proof.Machine.execHashFill s
  | .capq => Sys2Proof.Machine.execCapq s

end Sys2Proof.Machine
end

