-- ==== Sys2Proof/Machine/HostPort.lean ====
section
/-! DEFINITION. What the host and the platform do to the core: register writes, command writes with what overlaps them in time,
memory accesses, handler changes, reset; and what the host can read (00_scope R6, R15; 10_state R26, R27; 20_memory R63, R64;
30_encoding R85, R89, R90; 70_reset R230 to R232). -/

namespace Sys2Proof.Machine

/-! ### What the host can read (10_state R20, column "host-visible") -/

/-- The host reads an operand register. -/
def State.hostReadArg (s : State) (k : Nat) (r : ArgReg) : Option Nat := s.contexts[k]?.map fun c => c.arg r

/-- The host reads `RES`. -/
def State.hostReadRes (s : State) (k : Nat) : Option (BitVec 32) := s.contexts[k]?.map Context.res

/-- The host reads a byte of memory. -/
def State.hostReadMem (s : State) (a : Nat) : Byte := Memory.read s.mem a

/-! ### Overlap in time (20_memory R64, 44_capability R189) -/

/-- Accesses with these footprints conflict: one writes what the other reads or writes, the undefined case of 20_memory R64 and
93 U3. That two commands which only read the same bytes may run at the same time is the model's choice: DESIGN CHOICE, since
R64 also says that contexts run together "only on disjoint buffers" (log entry 38). -/
def conflict (r1 w1 r2 w2 : List Span) : Bool := anyMeet w1 r2 || anyMeet w1 w2 || anyMeet r1 w2

/-- Write an operand register of context `k`. -/
def State.setArgOf (s : State) (k : Nat) (r : ArgReg) (v : Nat) : State :=
  match s.contexts[k]? with
  | none => s
  | some c => { s with contexts := s.contexts.set k (c.setArg v r) }

/-- The footprint of the word `w` written to `CMD` of context `k`: what it reads and what it writes; nothing for a command that
is refused on its own, since "a refused command changes nothing" (60_exceptions R203). -/
def wordSpans (s : State) (k : Nat) (w : BitVec 32) : List Span × List Span :=
  match s.contexts[k]?, decode w with
  | some c, .ok i => if admission i s c = none then (readSpans i c, writeSpans i c) else ([], [])
  | _, _ => ([], [])

/-- Why the word `w`, written to `CMD` of context `k` while the detector runs, has no meaning: a second CAPQ (44_capability
R189), or a buffer command, which finds `DET_STATE` not `READY` (30_encoding R86 item 4); nothing for a word or a context that
is refused on its own (log entry 13). -/
def detectRefusal (s : State) (k : Nat) (w : BitVec 32) : Option Refusal :=
  match s.contexts[k]?, decode w with
  | some _, .ok .capq => some .concurrentDetect
  | some _, .ok _ => some .noCapabilityRecord
  | _, _ => none

/-- Why the command running on context `k` with footprint `reads`, `writes` has no meaning beside the actions that overlap it:
an access to its footprint is a race (20_memory R64); beside the detector no command may run and no handler may be installed
(44_capability R189, 70_reset R232, R241); its own context is busy (30_encoding R85); a reset has no meaning (93 U17). -/
def overlapRefusal (k : Nat) (detecting : Bool) (reads writes : List Span) : State → List HostAction → Option Refusal
  | _, [] => none
  | s, .arg k' r v :: rest =>
    if k' = k then some .contextBusy else overlapRefusal k detecting reads writes (s.setArgOf k' r v) rest
  | s, .cmd k' w _ :: rest =>
    if k' = k then some .contextBusy
    else
      match (if detecting then detectRefusal s k' w else none) with
      | some r => some r
      | none =>
        if conflict reads writes (wordSpans s k' w).1 (wordSpans s k' w).2 then some .race
        else overlapRefusal k detecting reads writes s rest
  | s, .load a :: rest =>
    if conflict reads writes [{ base := a, size := 1 }] [] then some .race
    else overlapRefusal k detecting reads writes s rest
  | s, .store a _ :: rest =>
    if conflict reads writes [] [{ base := a, size := 1 }] then some .race
    else overlapRefusal k detecting reads writes s rest
  | s, .handler _ :: rest =>
    if detecting then some .concurrentDetect else overlapRefusal k detecting reads writes s rest
  | _, .reset :: _ => some .resetDuringCommand

/-! ### The actions -/

/-- The refusal of a reserved word (30_encoding R87). -/
def decodeRefusal : DecodeError → Refusal
  | .reservedBits => .reservedBits
  | .reservedOp => .reservedOp

/-- Select context `k` and record the word in its `CMD` (30_encoding R85). -/
def State.select (s : State) (k : Nat) (w : BitVec 32) : State :=
  match s.contexts[k]? with
  | none => s
  | some c => { s with cur := k, contexts := s.contexts.set k { c with cmd := w } }

/-- This command runs the detector (44_capability R177 step 1). -/
def runsDetector (s : State) (i : Instr) : Bool := i == .capq && s.det == .uninit

/-- The host writes `w` to `CMD` of context `k`: one command, executed as one step of that context (30_encoding R85, R86). The
refusals are tested in the order of 60_exceptions R203: what overlaps the command comes last (log entry 32). -/
def issue (s : State) (k : Nat) (w : BitVec 32) (overlap : List HostAction) : Host.Outcome State Fault Refusal :=
  match s.contexts[k]? with
  | none => .refused .noSuchContext
  | some c =>
    match decode w with
    | .error e => .refused (decodeRefusal e)
    | .ok i =>
      match exec i (s.select k w), overlapRefusal k (runsDetector s i) (readSpans i c) (writeSpans i c) s overlap with
      | .next _, some r => .refused r
      | outcome, _ => outcome

/-- The host writes an operand register (10_state R26). -/
def hostWriteArg (s : State) (k : Nat) (r : ArgReg) (v : Nat) : Host.Outcome State Fault Refusal :=
  match s.contexts[k]? with
  | none => .refused .noSuchContext
  | some _ => if v < 2 ^ s.cfg.addrBits then .next (s.setArgOf k r v) else .refused .valueTooWide

/-- The host reads a byte of memory: no side effect (20_memory R54). -/
def hostLoad (s : State) (a : Nat) : Host.Outcome State Fault Refusal :=
  if backsRead s.cfg a then .next s else .refused .hostAccessNotBacked

/-- The host writes a byte of memory (20_memory R63). -/
def hostStore (s : State) (a : Nat) (b : Byte) : Host.Outcome State Fault Refusal :=
  if backsWrite s.cfg a then .next { s with mem := Memory.write s.mem a b } else .refused .hostAccessNotBacked

/-- Reset: the state of 10_state R39; the stores keep their configured values, memory and `HANDLER` are untouched (70_reset
R230; log entry 17). -/
def hostReset (s : State) : State :=
  { s with
    contexts := s.contexts.map fun _ => Context.reset
    cap := 0#32
    det := .uninit
    savedHandler := .platform 0
    checkpoint := .none
    cur := 0 }

/-- Perform one host action; `rest` is what follows it. -/
def perform (s : State) (rest : List HostAction) : HostAction → Host.Outcome State Fault Refusal
  | .arg k r v => hostWriteArg s k r v
  | .cmd k w window => issue s k w (rest.take window)
  | .load a => hostLoad s a
  | .store a b => hostStore s a b
  | .handler id => .next { s with handler := .platform id }
  | .reset => .next (hostReset s)

/-- One step: the next host action. With none, "the core does nothing until the host writes a `CMD`" (70_reset R231; log
entry 16). -/
def stepPending (s : State) : Host.Outcome State Fault Refusal :=
  match s.pending with
  | [] => .next s
  | a :: rest => perform { s with pending := rest } rest a

/-- The host writes `w` to `CMD` of the current context next. -/
def placeWord (s : State) (w : BitVec 32) : State := { s with pending := .cmd s.cur w 0 :: s.pending }

/-! ### Assembler lines (30_encoding R89, R90; log entry 33) -/

/-- One assembler line (30_encoding R89). -/
inductive AsmLine where
  | hash (buf len dig : Nat)
  | fill1 (st buf len : Nat)
  | fill4 (st buf len : Nat)
  | hashfill (buf len st dig : Nat)
  | capq
  deriving DecidableEq, Repr

/-- The register writes a line stands for: `ARG_BUF`, `ARG_LEN`, `ARG_STATE`, `ARG_DIGEST` as the command reads them, then
`CMD` (30_encoding R90). -/
def assemble (k : Nat) : AsmLine → List HostAction
  | .hash buf len dig => [.arg k .buf buf, .arg k .len len, .arg k .digest dig, .cmd k (encode .hash) 0]
  | .fill1 st buf len => [.arg k .buf buf, .arg k .len len, .arg k .state st, .cmd k (encode .fill1) 0]
  | .fill4 st buf len => [.arg k .buf buf, .arg k .len len, .arg k .state st, .cmd k (encode .fill4) 0]
  | .hashfill buf len st dig =>
    [.arg k .buf buf, .arg k .len len, .arg k .state st, .arg k .digest dig, .cmd k (encode .hashFill) 0]
  | .capq => [.cmd k (encode .capq) 0]

end Sys2Proof.Machine
end

