-- ==== Sys2Proof/Machine/Step.lean ====
section
/-! DEFINITION. The step function: one host action. -/

namespace Sys2Proof.Machine

/-- One step of the machine. -/
def step (s : State) : Host.Outcome State Fault Refusal := stepPending s

/-- `s` with the host about to write the command word to `CMD` of the current context (log entry 1). -/
def State.withFetchWord (s : State) (nbits w : Nat) : State := placeWord s (tableWord nbits w)

end Sys2Proof.Machine
end

