-- ==== Sys2Proof/Safety.lean ====
section
/-! DEFINITION. The terms claims are made in: when a buffer command has a meaning, what a command leaves unchanged, and the
invariant of every state. They are written from the rules of the spec, not from the code that checks or computes them. -/

namespace Sys2Proof.Safety

open Sys2Proof.Machine

/-- The address lies in the span. -/
def InSpan (a : Nat) (x : Span) : Prop := x.base ≤ a ∧ a < x.base + x.size

/-- The launch memory admits a read of the byte at `a` (20_memory R59). -/
def Readable (cfg : Config) (a : Nat) : Prop :=
  ∃ r ∈ cfg.launch, r.readable = true ∧ r.base ≤ a ∧ a < r.base + r.size

/-- The launch memory admits a write of the byte at `a` (20_memory R59). -/
def Writable (cfg : Config) (a : Nat) : Prop :=
  ∃ r ∈ cfg.launch, r.writable = true ∧ r.base ≤ a ∧ a < r.base + r.size

/-- A buffer command `i` on context `c`, the current one, satisfies 30_encoding R86 items 4 to 8. -/
structure Admissible (i : Instr) (s : State) (c : Context) : Prop where
  /-- `c` is the context the command was written to -/
  current : s.contexts[s.cur]? = some c
  /-- item 4 -/
  ready : s.det = .ready
  /-- item 5: bit 0 of `CAP` is `AES` (10_state R29) -/
  capable : s.cap.getLsbD 0 = true
  /-- item 6, 30_encoding R83 -/
  written : ∀ r ∈ operands i, c.argWritten r = true
  /-- item 7, 20_memory R56 -/
  size : c.argLen % 64 = 0
  /-- 20_memory R57 -/
  inRange : ∀ x ∈ regions i c, x.base + x.size ≤ 2 ^ s.cfg.addrBits
  /-- 20_memory R58 -/
  aligned : ∀ x ∈ regions i c, x.base % s.cfg.bufAlign = 0
  /-- 20_memory R59 -/
  disjoint : (regions i c).Pairwise fun x y => ∀ a, ¬ (InSpan a x ∧ InSpan a y)
  /-- 20_memory R59, R61 -/
  readable : ∀ x ∈ readSpans i c, ∀ a, InSpan a x → Readable s.cfg a
  /-- 20_memory R59, R61 -/
  writable : ∀ x ∈ writeSpans i c, ∀ a, InSpan a x → Writable s.cfg a

/-- The registers of a context that no command but the ones the spec names may change: `CMD`, the operand registers and their
"written" bits, `RES` (10_state R26, R27). -/
structure SameHostRegs (c d : Context) : Prop where
  cmd : d.cmd = c.cmd
  argBuf : d.argBuf = c.argBuf
  argLen : d.argLen = c.argLen
  argState : d.argState = c.argState
  argDigest : d.argDigest = c.argDigest
  bufWritten : d.bufWritten = c.bufWritten
  lenWritten : d.lenWritten = c.lenWritten
  stateWritten : d.stateWritten = c.stateWritten
  digestWritten : d.digestWritten = c.digestWritten
  res : d.res = c.res

/-- The lane-pair registers and the sequencing state of a context are unchanged. -/
structure SameScratch (c d : Context) : Prop where
  ha : d.ha = c.ha
  hb : d.hb = c.hb
  ga : d.ga = c.ga
  gb : d.gb = c.gb
  off : d.off = c.off
  phase : d.phase = c.phase

/-- The shared state a buffer command may not change: the capability record, the detector's state, the configuration, the
number of contexts, and the model's own fields. -/
structure SameShared (s t : State) : Prop where
  cap : t.cap = s.cap
  det : t.det = s.det
  handler : t.handler = s.handler
  savedHandler : t.savedHandler = s.savedHandler
  checkpoint : t.checkpoint = s.checkpoint
  cfg : t.cfg = s.cfg
  cur : t.cur = s.cur
  pending : t.pending = s.pending
  nctx : t.contexts.length = s.contexts.length

/-- Every context but the current one is unchanged (10_state R28). -/
def SameOthers (s t : State) : Prop := ∀ k, k ≠ s.cur → t.contexts[k]? = s.contexts[k]?

/-- Memory reads the same at every address outside the spans. -/
def SameMemOutside (xs : List Span) (s t : State) : Prop :=
  ∀ a, (∀ x ∈ xs, ¬ InSpan a x) → Memory.read t.mem a = Memory.read s.mem a

/-! ### Accesses and footprints -/

/-- The commands that move buffers; `CAPQ` is the fifth (30_encoding R80). -/
abbrev IsBuffer (i : Instr) : Prop := i ≠ .capq

/-- What a command does to its context and memory; `CAPQ` touches no memory (20_memory R61). -/
def commandBody : Instr → Config → Engine → Engine
  | .hash => hashCommand
  | .fill1 => fill1Command
  | .fill4 => fill4Command
  | .hashFill => hashFillCommand
  | .capq => fun _ e => e

/-- The accesses of a command in order (20_memory R62). -/
def accesses (i : Instr) (cfg : Config) (m : Memory) (c : Context) : List Access :=
  (commandBody i cfg { ctx := c, mem := m, trace := [] }).trace

/-- How often the list reads the byte at `a`: an access is to 64 bytes. -/
def readCount (a : Nat) : List Access → Nat
  | [] => 0
  | .read b :: l => (if b ≤ a ∧ a < b + 64 then 1 else 0) + readCount a l
  | .write _ :: l => readCount a l

/-- How often the list writes the byte at `a`. -/
def writeCount (a : Nat) : List Access → Nat
  | [] => 0
  | .read _ :: l => writeCount a l
  | .write b :: l => (if b ≤ a ∧ a < b + 64 then 1 else 0) + writeCount a l

/-- Commands with these footprints may run at the same time: none writes what the other reads or writes (20_memory R64). -/
def NoConflict (r1 w1 r2 w2 : List Span) : Prop :=
  ∀ a, (∀ x ∈ w1, ∀ y ∈ r2 ++ w2, ¬ (InSpan a x ∧ InSpan a y)) ∧ ∀ x ∈ r1, ∀ y ∈ w2, ¬ (InSpan a x ∧ InSpan a y)

/-- Logical lane `i` of a block: bytes `16i .. 16i + 15` (00_scope R14). -/
def laneOf (blk : Block) (i : Fin 4) : Lane := Vector.ofFn fun j : Fin 16 => blk[16 * i.val + j.val]

/-- The hash of one logical lane with a 128-bit round: from the seed, absorb lane `i` of every block in order, then the two
whitening keys (40_tables R118, 41_hash R133 to R136). -/
def laneHash (round : Lane → Lane → Lane) (seed key0 key1 : Lane) (i : Fin 4) (blks : List Block) : Lane :=
  round (round (blks.foldl (fun l blk => round l (laneOf blk i)) seed) key0) key1

/-! ### The invariant -/

/-- What every context satisfies between steps: `OFF` and the operand registers fit `ADDR_BITS` bits, `OFF` is a multiple of
64 (10_state R24, R26), and no hash is in progress (10_state R25). -/
structure ContextInv (cfg : Config) (c : Context) : Prop where
  off : c.off < 2 ^ cfg.addrBits
  offChunk : c.off % 64 = 0
  phase : c.phase = .idle
  args : ∀ r, c.arg r < 2 ^ cfg.addrBits

/-- What every state between steps satisfies. -/
structure Inv (s : State) : Prop where
  /-- the configuration is one of this core (00_scope R8) -/
  cfg : s.cfg.wf = true
  /-- memory is in canonical form -/
  mem : Memory.wf s.mem = true
  /-- every listed byte has an address of `ADDR_BITS` bits (20_memory R50) -/
  memSpace : ∀ cell ∈ s.mem, cell.1 < 2 ^ s.cfg.addrBits
  /-- every context satisfies its invariant -/
  contexts : ∀ c ∈ s.contexts, ContextInv s.cfg c
  /-- the current context exists, so there is at least one (10_state R28) -/
  cur : s.cur < s.contexts.length
  /-- once the record exists, the reserved bits of `CAP` read as zero (10_state R33; before, `CAP` has no value, 93 U8) -/
  reserved : s.det = .ready → s.cap.extractLsb' 2 14 = 0#14
  /-- once the record exists, `VEC_WIDTH` is 0 when `WIDE_SIMD` is 0 (10_state R32) -/
  width : s.det = .ready → s.cap.getLsbD 1 = false → s.cap.extractLsb' 16 16 = 0#16
  /-- the detector runs inside one step (44_capability R185) -/
  det : s.det ≠ .probing
  /-- no probe is under way (10_state R35, 60_exceptions R210) -/
  checkpoint : s.checkpoint = .none
  /-- outside a probe the platform's handler is installed (10_state R35) -/
  handler : s.handler ≠ .probe

end Sys2Proof.Safety
end

