-- ==== Sys2Proof/Certificates/Slice0/Obligations.lean ====
section
/-! DEFINITION. The statements for the provers, from the numbered rules of the spec. A free value (log entries 7 to 9) is never
named by a statement: what a command leaves in `HA`, `HB`, `GA`, `GB` and `OFF` is unspecified (10_state R23, R24). -/

open Sys2Proof Sys2Proof.Machine Sys2Proof.Safety

/-! ## Encoding and stepping -/

/-- 30_encoding R82: the words of the five commands, and the reserved operation codes. -/
def Obligations.CommandWordsDecode : Prop :=
  decode 0x00000001#32 = .ok .hash ∧ decode 0x00000002#32 = .ok .fill1 ∧ decode 0x00000003#32 = .ok .fill4 ∧
  decode 0x00000004#32 = .ok .hashFill ∧ decode 0x00000005#32 = .ok .capq ∧
  decode 0x00000000#32 = .error .reservedOp ∧
  ∀ op : Nat, 6 ≤ op → op ≤ 15 → decode (BitVec.ofNat 32 op) = .error .reservedOp

/-- 30_encoding R87: every word but the five is refused when it is written to `CMD`, whatever the state. -/
def Obligations.ReservedWordsRefused : Prop :=
  ∀ (s : State) (k : Nat) (c : Context) (w : BitVec 32) (window : Nat) (rest : List HostAction),
    s.pending = .cmd k w window :: rest → s.contexts[k]? = some c →
    (w.toNat / 16 ≠ 0 → step s = .refused .reservedBits) ∧
    (w.toNat / 16 = 0 → (w.toNat % 16 = 0 ∨ 6 ≤ w.toNat % 16) → step s = .refused .reservedOp)

/-- 30_encoding R82, R88: decoding is exactly the inverse of encoding, over all words. -/
def Obligations.DecodeInvertsEncode : Prop :=
  ∀ (w : BitVec 32) (i : Instr), decode w = .ok i ↔ (w = encode i ∧ i.wf = true)

/-- 30_encoding R85: a step on a command word that nothing conflicts with is the command's meaning, on the context it was
written to, with the word in `CMD` and the action consumed. -/
def Obligations.StepRunsCommand : Prop :=
  ∀ (s : State) (k : Nat) (c : Context) (w : BitVec 32) (window : Nat) (rest : List HostAction) (i : Instr),
    s.pending = .cmd k w window :: rest → s.contexts[k]? = some c → decode w = .ok i →
    overlapRefusal k (runsDetector s i) (readSpans i c) (writeSpans i c) { s with pending := rest }
      (rest.take window) = none →
    step s = exec i { s with
      pending := rest, cur := k, contexts := s.contexts.set k { c with cmd := w } }

/-- The word the opcode table gives, placed as the host's next command, runs (log entry 1). -/
def Obligations.FetchedWordRuns : Prop :=
  ∀ (s : State) (c : Context) (nbits w : Nat) (i : Instr),
    s.contexts[s.cur]? = some c → decodeTableWord nbits w = some i →
    step (s.withFetchWord nbits w) =
      exec i { s with contexts := s.contexts.set s.cur { c with cmd := BitVec.ofNat 32 (w % 2 ^ nbits) } }

/-- 70_reset R231: the core does nothing until the host acts. -/
def Obligations.IdleCoreDoesNothing : Prop :=
  step State.reset = .next State.reset ∧ ∀ s : State, s.pending = [] → step s = .next s

/-! ## Tables and rounds -/

/-- 40_tables R101: every table is a bijection, and gather and scatter through it are inverse. -/
def Obligations.GatherScatterRoundTrip : Prop :=
  ∀ t : Perm64, Function.Bijective (fun p : Fin 64 => t.fwd[p]) ∧
    (∀ b : Block, scatter t (gather t b) = b) ∧ ∀ l : LaneState, gather t (scatter t l) = l

/-- 40_tables R102, R103: where `GATHER` and `SCATTER` put each byte. -/
def Obligations.GatherScatterPlaceBytes : Prop :=
  ∀ (t : Perm64) (p : Fin 32),
    (∀ b : Block, (gather t b).a[p] = b[t.fwd[p.val]] ∧ (gather t b).b[p] = b[t.fwd[32 + p.val]]) ∧
    ∀ l : LaneState, (scatter t l)[t.fwd[p.val]] = l.a[p] ∧ (scatter t l)[t.fwd[32 + p.val]] = l.b[p]

/-- 40_tables R104: the default of `TBL1`. That `State.reset` holds it, where R104 leaves `TBL1` a parameter, is the model's
choice (log entry 2). -/
def Obligations.DefaultTableEntries : Prop :=
  State.reset.cfg.tbl1 = tbl1Default ∧
    ∀ p : Fin 64, (tbl1Default.fwd[p]).val = 16 * ([0, 2, 1, 3].getD (p.val / 16) 0) + p.val % 16

/-- 40_tables R109, R110: the two substitution tables are inverse, and `SBOX[a]` is the affine map of the field inverse. -/
def Obligations.SubstitutionTables : Prop :=
  (∀ a : Byte, invSbox (sbox a) = a ∧ sbox (invSbox a) = a) ∧
  ∀ a : Byte, ∃ b : Byte, (a = 0#8 → b = 0#8) ∧ (a ≠ 0#8 → gmul a b = 1#8) ∧
    sbox a = b ^^^ b.rotateLeft 1 ^^^ b.rotateLeft 2 ^^^ b.rotateLeft 3 ^^^ b.rotateLeft 4 ^^^ 0x63#8

/-- 40_tables R111: row `r` is rotated left, respectively right, by `r` columns; the two rotations are inverse of each other and
commute with both substitutions. -/
def Obligations.RowRotationsInvert : Prop :=
  ∀ s : Lane,
    (∀ r c : Fin 4, (shiftRows s)[r.val + 4 * c.val] = s[r.val + 4 * ((c.val + r.val) % 4)] ∧
      (invShiftRows s)[r.val + 4 * c.val] = s[r.val + 4 * ((c.val + 4 - r.val) % 4)]) ∧
    invShiftRows (shiftRows s) = s ∧ shiftRows (invShiftRows s) = s ∧
    shiftRows (subBytes s) = subBytes (shiftRows s) ∧ shiftRows (invSubBytes s) = invSubBytes (shiftRows s) ∧
    invShiftRows (subBytes s) = subBytes (invShiftRows s) ∧ invShiftRows (invSubBytes s) = invSubBytes (invShiftRows s)

/-- 40_tables R113: the four equations of each column, and `InvMixColumns(MixColumns(s)) = s`. -/
def Obligations.InvMixColumnsInverts : Prop :=
  ∀ s : Lane,
    (∀ c : Fin 4,
      let a0 := s[4 * c.val]
      let a1 := s[4 * c.val + 1]
      let a2 := s[4 * c.val + 2]
      let a3 := s[4 * c.val + 3]
      (invMixColumns s)[4 * c.val] = gmul a0 14 ^^^ gmul a1 11 ^^^ gmul a2 13 ^^^ gmul a3 9 ∧
      (invMixColumns s)[4 * c.val + 1] = gmul a0 9 ^^^ gmul a1 14 ^^^ gmul a2 11 ^^^ gmul a3 13 ∧
      (invMixColumns s)[4 * c.val + 2] = gmul a0 13 ^^^ gmul a1 9 ^^^ gmul a2 14 ^^^ gmul a3 11 ∧
      (invMixColumns s)[4 * c.val + 3] = gmul a0 11 ^^^ gmul a1 13 ^^^ gmul a2 9 ^^^ gmul a3 14) ∧
    invMixColumns (mixColumns s) = s

/-- 40_tables R114, R115: each round is undone by the inverse steps in the reverse order, so the true inverse of `fwd128`
applies `InvMixColumns` first; and a pair primitive acts on each sub-lane alone (R116). -/
def Obligations.RoundsInvertAndSplit : Prop :=
  (∀ s k : Lane, invSubBytes (invShiftRows (invMixColumns (xorLane (fwd128 s k) k))) = s) ∧
  (∀ s m : Lane, subBytes (shiftRows (mixColumns (xorLane (inv128 s m) m))) = s) ∧
  ∀ p k : Pair,
    subLane0 (fwdRound p k) = fwd128 (subLane0 p) (subLane0 k) ∧
    subLane1 (fwdRound p k) = fwd128 (subLane1 p) (subLane1 k) ∧
    subLane0 (invRoundXor p k) = inv128 (subLane0 p) (subLane0 k) ∧
    subLane1 (invRoundXor p k) = inv128 (subLane1 p) (subLane1 k)

/-- 40_tables R118, 41_hash R132 to R137: with the default `TBL1`, absorbing a block is `fwd128` on logical lanes 0 and 2 and
`inv128` on lanes 1 and 3; the finalizing step is two more such rounds, with `XK[0]` and then `XK[1]`, the same key to both
pairs; the digest holds the four lanes in logical order. So each lane of the hash is the 128-bit hash of that lane of the
blocks. -/
def Obligations.HashLaneView : Prop :=
  ∀ (cfg : Config) (h : LaneState) (blk : Block) (blks : List Block), cfg.tbl1 = tbl1Default →
    let seeds := cfg.constants
    let x := cfg.constants.xk[0]
    let y := cfg.constants.xk[1]
    subLane0 (hashAbsorb cfg h blk).a = fwd128 (subLane0 h.a) (laneOf blk 0) ∧
    subLane0 (hashAbsorb cfg h blk).b = inv128 (subLane0 h.b) (laneOf blk 1) ∧
    subLane1 (hashAbsorb cfg h blk).a = fwd128 (subLane1 h.a) (laneOf blk 2) ∧
    subLane1 (hashAbsorb cfg h blk).b = inv128 (subLane1 h.b) (laneOf blk 3) ∧
    subLane0 (hashFinalRounds cfg h).a = fwd128 (fwd128 (subLane0 h.a) (subLane0 x)) (subLane0 y) ∧
    subLane0 (hashFinalRounds cfg h).b = inv128 (inv128 (subLane0 h.b) (subLane0 x)) (subLane0 y) ∧
    subLane1 (hashFinalRounds cfg h).a = fwd128 (fwd128 (subLane1 h.a) (subLane1 x)) (subLane1 y) ∧
    subLane1 (hashFinalRounds cfg h).b = inv128 (inv128 (subLane1 h.b) (subLane1 x)) (subLane1 y) ∧
    laneOf (scatter cfg.tbl1 h) 0 = subLane0 h.a ∧ laneOf (scatter cfg.tbl1 h) 1 = subLane0 h.b ∧
    laneOf (scatter cfg.tbl1 h) 2 = subLane1 h.a ∧ laneOf (scatter cfg.tbl1 h) 3 = subLane1 h.b ∧
    laneOf (hashOf cfg blks) 0 = laneHash fwd128 (subLane0 seeds.hInitA) (subLane0 x) (subLane0 y) 0 blks ∧
    laneOf (hashOf cfg blks) 1 = laneHash inv128 (subLane0 seeds.hInitB) (subLane0 x) (subLane0 y) 1 blks ∧
    laneOf (hashOf cfg blks) 2 = laneHash fwd128 (subLane1 seeds.hInitA) (subLane1 x) (subLane1 y) 2 blks ∧
    laneOf (hashOf cfg blks) 3 = laneHash inv128 (subLane1 seeds.hInitB) (subLane1 x) (subLane1 y) 3 blks

/-! ## HASH -/

/-- 41_hash R133: an admissible HASH completes with the digest of the buffer at `ARG_DIGEST`, `PHASE = IDLE`. -/
def Obligations.HashWritesDigest : Prop :=
  ∀ (s : State) (c : Context), Admissible .hash s c → Memory.wf s.mem = true →
    ∃ t d, exec .hash s = .next t ∧ t.contexts[s.cur]? = some d ∧ d.phase = .idle ∧
      Memory.readBlock t.mem c.argDigest = hashOf s.cfg (Memory.blocks s.mem c.argBuf (c.argLen / 64))

/-- What HASH leaves unchanged: every byte but the digest, every register but the lane-pairs, `OFF` and `PHASE`
(41_hash R133, 20_memory R61, 10_state R26, R27). -/
def Obligations.HashFrame : Prop :=
  ∀ (s t : State) (c : Context), exec .hash s = .next t → s.contexts[s.cur]? = some c →
    (∃ d, t.contexts[s.cur]? = some d ∧ SameHostRegs c d) ∧ SameShared s t ∧ SameOthers s t ∧
      SameMemOutside [{ base := c.argDigest, size := 64 }] s t

/-- 41_hash R139: the digest of an empty buffer is `HashFinal(HashInit())`, and no byte of the buffer is read. -/
def Obligations.HashOfEmptyBuffer : Prop :=
  ∀ (s : State) (c : Context), Admissible .hash s c → Memory.wf s.mem = true → c.argLen = 0 →
    accesses .hash s.cfg s.mem c = [.write c.argDigest] ∧
    ∃ t, exec .hash s = .next t ∧ Memory.readBlock t.mem c.argDigest = hashFinal s.cfg (hashInit s.cfg)

/-! ## FILL1 and FILL4 -/

/-- 42_generator R147, R149: an admissible FILL1 completes with `Fill1Out` in the buffer and `Fill1State` in the state
buffer. -/
def Obligations.Fill1WritesStream : Prop :=
  ∀ (s : State) (c : Context), Admissible .fill1 s c → Memory.wf s.mem = true →
    ∃ t, exec .fill1 s = .next t ∧
      Memory.blocks t.mem c.argBuf (c.argLen / 64) =
        fill1Out s.cfg (Memory.readBlock s.mem c.argState) (c.argLen / 64) ∧
      Memory.readBlock t.mem c.argState =
        fill1State s.cfg (Memory.readBlock s.mem c.argState) (c.argLen / 64)

/-- What FILL1 leaves unchanged (42_generator R147, 20_memory R61). `PHASE` is not a register of the generator. -/
def Obligations.Fill1Frame : Prop :=
  ∀ (s t : State) (c : Context), exec .fill1 s = .next t → s.contexts[s.cur]? = some c →
    (∃ d, t.contexts[s.cur]? = some d ∧ SameHostRegs c d ∧ d.phase = c.phase) ∧ SameShared s t ∧ SameOthers s t ∧
      SameMemOutside [{ base := c.argBuf, size := c.argLen }, { base := c.argState, size := 64 }] s t

/-- 42_generator R151: after FILL1 the state buffer equals the last chunk written; with nothing written it is unchanged. -/
def Obligations.Fill1StateIsLastChunk : Prop :=
  ∀ (s : State) (c : Context), Admissible .fill1 s c → Memory.wf s.mem = true →
    ∃ t, exec .fill1 s = .next t ∧
      (64 ≤ c.argLen →
        Memory.readBlock t.mem c.argState = Memory.readBlock t.mem (c.argBuf + c.argLen - 64)) ∧
      (c.argLen = 0 → Memory.readBlock t.mem c.argState = Memory.readBlock s.mem c.argState)

/-- 42_generator R150: the stream and the state of a split length, as functions of the state bytes. -/
def Obligations.Fill1StreamSplits : Prop :=
  ∀ (cfg : Config) (st : Block) (m n : Nat),
    fill1Out cfg st (m + n) = fill1Out cfg st m ++ fill1Out cfg (fill1State cfg st m) n ∧
      fill1State cfg st (m + n) = fill1State cfg (fill1State cfg st m) n

/-- 42_generator R150, BH S4, on the machine: one FILL1 of `n1 + n2` bytes leaves the memory that a FILL1 of `n1` bytes and,
with the operand registers moved on by the host, a FILL1 of `n2` bytes leave. -/
def Obligations.Fill1TwoCallsEqualOne : Prop :=
  ∀ (s : State) (c : Context) (n1 n2 : Nat), Admissible .fill1 s c → Memory.wf s.mem = true → s.cfg.wf = true →
    c.argLen = n1 + n2 → n1 % 64 = 0 →
    ∃ t u v, exec .fill1 s = .next t ∧
      exec .fill1 (s.setArgOf s.cur .len n1) = .next u ∧
      exec .fill1 ((u.setArgOf s.cur .buf (c.argBuf + n1)).setArgOf s.cur .len n2) = .next v ∧
      ∀ a, Memory.read v.mem a = Memory.read t.mem a

/-- 42_generator R152, R154: an admissible FILL4 completes with `Fill4Out` in the buffer and the state buffer as it was. -/
def Obligations.Fill4WritesStream : Prop :=
  ∀ (s : State) (c : Context), Admissible .fill4 s c → Memory.wf s.mem = true →
    ∃ t, exec .fill4 s = .next t ∧
      Memory.blocks t.mem c.argBuf (c.argLen / 64) =
        fill4Out s.cfg (Memory.readBlock s.mem c.argState) (c.argLen / 64) ∧
      Memory.readBlock t.mem c.argState = Memory.readBlock s.mem c.argState

/-- What FILL4 leaves unchanged: the state buffer is not written (42_generator R152, R154, 20_memory R61). -/
def Obligations.Fill4Frame : Prop :=
  ∀ (s t : State) (c : Context), exec .fill4 s = .next t → s.contexts[s.cur]? = some c →
    (∃ d, t.contexts[s.cur]? = some d ∧ SameHostRegs c d ∧ d.phase = c.phase) ∧ SameShared s t ∧ SameOthers s t ∧
      SameMemOutside [{ base := c.argBuf, size := c.argLen }] s t

/-- 42_generator R157: with `ARG_LEN = 0` FILL1 reads and writes the state buffer, FILL4 reads it and writes nothing; both
complete and change no byte of memory. -/
def Obligations.FillsOfNothing : Prop :=
  ∀ (s : State) (c : Context), Memory.wf s.mem = true → c.argLen = 0 →
    accesses .fill1 s.cfg s.mem c = [.read c.argState, .write c.argState] ∧
    accesses .fill4 s.cfg s.mem c = [.read c.argState] ∧
    (Admissible .fill1 s c → ∃ t, exec .fill1 s = .next t ∧ ∀ a, Memory.read t.mem a = Memory.read s.mem a) ∧
    (Admissible .fill4 s c → ∃ t, exec .fill4 s = .next t ∧ ∀ a, Memory.read t.mem a = Memory.read s.mem a)

/-- 42_generator R158, R154 (b): the output depends on the 64 state bytes and the configuration alone, so two FILL4 (or two
FILL1) from equal state bytes write streams of which the shorter is a prefix of the longer. -/
def Obligations.FillsDependOnStateBytes : Prop :=
  ∀ (s s' : State) (c c' : Context), Memory.wf s.mem = true → Memory.wf s'.mem = true → s'.cfg = s.cfg →
    Memory.readBlock s'.mem c'.argState = Memory.readBlock s.mem c.argState →
    ∀ i, (i = .fill1 ∨ i = .fill4) → Admissible i s c → Admissible i s' c' →
      ∃ t t', exec i s = .next t ∧ exec i s' = .next t' ∧
        ∀ k, 64 * k < c.argLen → 64 * k < c'.argLen →
          Memory.readBlock t'.mem (c'.argBuf + 64 * k) = Memory.readBlock t.mem (c.argBuf + 64 * k)

/-! ## HASHFILL -/

/-- 43_fused R166: an admissible HASHFILL completes with the digest of the old scratchpad, the 1-round stream in the
scratchpad, the state persisted, `PHASE = IDLE`. -/
def Obligations.HashFillWritesAll : Prop :=
  ∀ (s : State) (c : Context), Admissible .hashFill s c → Memory.wf s.mem = true →
    ∃ t d, exec .hashFill s = .next t ∧ t.contexts[s.cur]? = some d ∧ d.phase = .idle ∧
      Memory.readBlock t.mem c.argDigest = hashOf s.cfg (Memory.blocks s.mem c.argBuf (c.argLen / 64)) ∧
      Memory.blocks t.mem c.argBuf (c.argLen / 64) =
        fill1Out s.cfg (Memory.readBlock s.mem c.argState) (c.argLen / 64) ∧
      Memory.readBlock t.mem c.argState =
        fill1State s.cfg (Memory.readBlock s.mem c.argState) (c.argLen / 64)

/-- What HASHFILL leaves unchanged (43_fused R166, 20_memory R61). -/
def Obligations.HashFillFrame : Prop :=
  ∀ (s t : State) (c : Context), exec .hashFill s = .next t → s.contexts[s.cur]? = some c →
    (∃ d, t.contexts[s.cur]? = some d ∧ SameHostRegs c d) ∧ SameShared s t ∧ SameOthers s t ∧
      SameMemOutside [{ base := c.argBuf, size := c.argLen }, { base := c.argState, size := 64 },
        { base := c.argDigest, size := 64 }] s t

/-- 43_fused R168, BH S3: HASHFILL, HASH and FILL1 from one state: the digest is HASH's, every other byte is FILL1's, and in
closed form the three buffers hold `Hash(buf0)`, `Fill1Out(st0, n)` and `Fill1State(st0, n)`. -/
def Obligations.FusionEquivalence : Prop :=
  ∀ (s : State) (c : Context), Admissible .hashFill s c → Memory.wf s.mem = true →
    ∃ t h f, exec .hashFill s = .next t ∧ exec .hash s = .next h ∧ exec .fill1 s = .next f ∧
      Memory.readBlock t.mem c.argDigest = Memory.readBlock h.mem c.argDigest ∧
      (∀ a, (a < c.argDigest ∨ c.argDigest + 64 ≤ a) → Memory.read t.mem a = Memory.read f.mem a) ∧
      Memory.readBlock t.mem c.argDigest = hashOf s.cfg (Memory.blocks s.mem c.argBuf (c.argLen / 64)) ∧
      Memory.blocks t.mem c.argBuf (c.argLen / 64) =
        fill1Out s.cfg (Memory.readBlock s.mem c.argState) (c.argLen / 64) ∧
      Memory.readBlock t.mem c.argState =
        fill1State s.cfg (Memory.readBlock s.mem c.argState) (c.argLen / 64)

/-- 43_fused R170: with `ARG_LEN = 0` the digest is `HashFinal(HashInit())` and no other byte changes. -/
def Obligations.HashFillOfNothing : Prop :=
  ∀ (s : State) (c : Context), Admissible .hashFill s c → Memory.wf s.mem = true → c.argLen = 0 →
    ∃ t, exec .hashFill s = .next t ∧ Memory.readBlock t.mem c.argDigest = hashFinal s.cfg (hashInit s.cfg) ∧
      ∀ a, (a < c.argDigest ∨ c.argDigest + 64 ≤ a) → Memory.read t.mem a = Memory.read s.mem a

/-- 43_fused R171: after a HASHFILL, HASH of the same scratchpad gives the digest of the fill bytes; and so does a second
HASHFILL, which leaves the second `n` bytes of the stream in the scratchpad. -/
def Obligations.SecondPassHashesTheFill : Prop :=
  ∀ (s : State) (c : Context), Admissible .hashFill s c → Memory.wf s.mem = true →
    ∃ t h u, exec .hashFill s = .next t ∧ exec .hash t = .next h ∧ exec .hashFill t = .next u ∧
      Memory.readBlock h.mem c.argDigest =
        hashOf s.cfg (fill1Out s.cfg (Memory.readBlock s.mem c.argState) (c.argLen / 64)) ∧
      Memory.readBlock u.mem c.argDigest =
        hashOf s.cfg (fill1Out s.cfg (Memory.readBlock s.mem c.argState) (c.argLen / 64)) ∧
      Memory.blocks u.mem c.argBuf (c.argLen / 64) =
        (fill1Out s.cfg (Memory.readBlock s.mem c.argState) (c.argLen / 64 + c.argLen / 64)).drop (c.argLen / 64)

/-! ## Footprints and contexts -/

/-- 20_memory R61: each byte of a read region is read exactly once and each byte of a written region is written exactly once,
and no other byte is read or written. R62, 43_fused R167: the order of the accesses: the state buffer is read first; then the
chunks in ascending offset, in HASHFILL each read before it is written; then the state buffer is written, then the digest. -/
def Obligations.EachByteAccessedOnce : Prop :=
  (∀ (cfg : Config) (m : Memory) (c : Context),
    let chunks := (List.range (c.argLen / 64)).map fun k => c.argBuf + 64 * k
    accesses .hash cfg m c = chunks.map .read ++ [.write c.argDigest] ∧
    accesses .fill1 cfg m c = .read c.argState :: (chunks.map .write ++ [.write c.argState]) ∧
    accesses .fill4 cfg m c = .read c.argState :: chunks.map .write ∧
    accesses .hashFill cfg m c = .read c.argState ::
      (chunks.flatMap (fun a => [.read a, .write a]) ++ [.write c.argState, .write c.argDigest])) ∧
  ∀ (i : Instr) (s : State) (c : Context), IsBuffer i → Admissible i s c → ∀ a,
    ((∃ x ∈ readSpans i c, InSpan a x) → readCount a (accesses i s.cfg s.mem c) = 1) ∧
    ((∀ x ∈ readSpans i c, ¬ InSpan a x) → readCount a (accesses i s.cfg s.mem c) = 0) ∧
    ((∃ x ∈ writeSpans i c, InSpan a x) → writeCount a (accesses i s.cfg s.mem c) = 1) ∧
    ((∀ x ∈ writeSpans i c, ¬ InSpan a x) → writeCount a (accesses i s.cfg s.mem c) = 0)

/-- 20_memory R61, 10_state R22: what a buffer command writes depends on the configuration, its operand registers and the
bytes it reads, and on nothing else: not on the other bytes of memory, nor on any other register, nor on any shared state. -/
def Obligations.ResultsDependOnFootprint : Prop :=
  ∀ (i : Instr) (s s' : State) (c c' : Context), IsBuffer i → Admissible i s c → Admissible i s' c' →
    Memory.wf s.mem = true → Memory.wf s'.mem = true → s'.cfg = s.cfg → (∀ r, c'.arg r = c.arg r) →
    (∀ x ∈ readSpans i c, ∀ a, InSpan a x → Memory.read s'.mem a = Memory.read s.mem a) →
    ∃ t t', exec i s = .next t ∧ exec i s' = .next t' ∧
      ∀ x ∈ writeSpans i c, ∀ a, InSpan a x → Memory.read t'.mem a = Memory.read t.mem a

/-- 20_memory R64, 60_exceptions R213: two commands on different contexts whose footprints do not conflict leave the same
memory in either order. That footprints which meet only in bytes both commands read do not conflict is the model's choice (log
entry 38). -/
def Obligations.DisjointContextsCommute : Prop :=
  ∀ (i j : Instr) (s : State) (k l : Nat) (c d : Context), IsBuffer i → IsBuffer j → k ≠ l →
    Admissible i { s with cur := k } c → Admissible j { s with cur := l } d → Memory.wf s.mem = true →
    NoConflict (readSpans i c) (writeSpans i c) (readSpans j d) (writeSpans j d) →
    ∃ t u t' u', exec i { s with cur := k } = .next t ∧ exec j { t with cur := l } = .next u ∧
      exec j { s with cur := l } = .next t' ∧ exec i { t' with cur := k } = .next u' ∧
      ∀ a, Memory.read u'.mem a = Memory.read u.mem a

/-- 10_state R28, 60_exceptions R213: no command changes another context, the configuration or the number of contexts. -/
def Obligations.OtherContextsUntouched : Prop :=
  ∀ (i : Instr) (s t : State), exec i s = .next t →
    SameOthers s t ∧ t.cfg = s.cfg ∧ t.contexts.length = s.contexts.length ∧ t.cur = s.cur ∧ t.pending = s.pending

/-! ## CAPQ and the detector -/

/-- 44_capability R186 (and R178, R179): the first CAPQ completes with the record of the outcome table, in `CAP` and in
`RES`, and with `DET_STATE = READY`. -/
def Obligations.CapqOutcomeTable : Prop :=
  ∀ (s : State) (c : Context), s.contexts[s.cur]? = some c → s.det = .uninit →
    ∃ t d, exec .capq s = .next t ∧ t.contexts[s.cur]? = some d ∧ d.res = t.cap ∧ t.det = .ready ∧
      t.cap.extractLsb' 2 14 = 0#14 ∧
      (∀ q, s.cfg.plat.static = some q →
        t.cap.getLsbD 0 = q.aes ∧ t.cap.getLsbD 1 = q.wideSimd ∧
        t.cap.extractLsb' 16 16 = if q.wideSimd then q.vecWidth else 0#16) ∧
      (s.cfg.plat.static = none →
        (s.cfg.plat.vecProbe = .trap → t.cap.getLsbD 1 = false ∧ t.cap.extractLsb' 16 16 = 0#16) ∧
        (∀ w, s.cfg.plat.vecProbe = .ok w → t.cap.getLsbD 1 = true ∧ t.cap.extractLsb' 16 16 = w) ∧
        (t.cap.getLsbD 0 = true ↔
          s.cfg.plat.aesProbe = .ok ∧ backendAnswer s.cfg s.cfg.katInput = .digest s.cfg.refDigest))

/-- What the first CAPQ leaves unchanged: memory, `HANDLER`, the configuration, the other contexts, and every register of its
own context but `RES`, `HA` and `HB` (44_capability R177, R180). -/
def Obligations.CapqFirstFrame : Prop :=
  ∀ (s t : State) (c : Context), exec .capq s = .next t → s.contexts[s.cur]? = some c → s.det = .uninit →
    (∃ d, t.contexts[s.cur]? = some d ∧ d.ga = c.ga ∧ d.gb = c.gb ∧ d.off = c.off ∧ d.phase = c.phase ∧
      SameHostRegs c { d with res := c.res }) ∧
    SameOthers s t ∧ t.mem = s.mem ∧ t.handler = s.handler ∧ t.cfg = s.cfg ∧ t.cur = s.cur ∧
    t.pending = s.pending ∧ (s.checkpoint = .none → t.checkpoint = .none)

/-- 44_capability R179: on a platform with a static query no probe runs: the first CAPQ also leaves `SAVED_HANDLER`,
`CHECKPOINT`, `HA` and `HB` as they were. -/
def Obligations.CapqStaticPath : Prop :=
  ∀ (s : State) (c : Context) (q : StaticQuery), s.contexts[s.cur]? = some c → s.det = .uninit →
    s.cfg.plat.static = some q →
    ∃ t d, exec .capq s = .next t ∧ t.contexts[s.cur]? = some d ∧ SameScratch c d ∧
      t.handler = s.handler ∧ t.savedHandler = s.savedHandler ∧ t.checkpoint = s.checkpoint ∧ t.mem = s.mem

/-- 44_capability R177, R190, BH S5: once the record exists a CAPQ completes, returns it in `RES` and changes nothing else;
it does so whatever `CAP.AES` is. -/
def Obligations.CapqLaterIsPureRead : Prop :=
  ∀ (s : State) (c : Context), s.contexts[s.cur]? = some c → s.det = .ready →
    ∃ t d, exec .capq s = .next t ∧ t.contexts[s.cur]? = some d ∧ d.res = s.cap ∧ SameScratch c d ∧
      SameHostRegs c { d with res := c.res } ∧ SameShared s t ∧ SameOthers s t ∧ t.mem = s.mem

/-- 44_capability R188, BH S7: a datapath that executes without trapping but returns another digest leaves `CAP.AES` 0; and
R187, BH S6: a probe that traps leaves its flag 0. -/
def Obligations.ProbesAndSelfTestGate : Prop :=
  ∀ (s : State) (c : Context), s.contexts[s.cur]? = some c → s.det = .uninit → s.cfg.plat.static = none →
    ∃ t, exec .capq s = .next t ∧ t.det = .ready ∧
      (∀ d, backendAnswer s.cfg s.cfg.katInput = .digest d → d ≠ s.cfg.refDigest → t.cap.getLsbD 0 = false) ∧
      (s.cfg.plat.aesProbe = .trap → t.cap.getLsbD 0 = false) ∧
      (s.cfg.plat.vecProbe = .trap → t.cap.getLsbD 1 = false)

/-- 44_capability R182: a conforming core on a self-consistent configuration passes the self-test. -/
def Obligations.ConformingCorePassesSelfTest : Prop :=
  ∀ (s : State) (c : Context), s.contexts[s.cur]? = some c → s.det = .uninit → s.cfg.plat.static = none →
    s.cfg.plat.aesProbe = .ok → s.cfg.backend = [] → s.cfg.refDigest = hashOf s.cfg [s.cfg.katInput] →
    ∃ t, exec .capq s = .next t ∧ t.cap.getLsbD 0 = true

/-- 44_capability R180, 60_exceptions R209: for each of the two probes, `HANDLER` after `Guarded` is `HANDLER` before it and
`CHECKPOINT` is `NONE`, trapped or not; inside, the probe handler is installed and the checkpoint set. -/
def Obligations.GuardedRestoresHandler : Prop :=
  ∀ s : State,
    ((guarded .vecProbe vecProbeBody s).2.handler = s.handler ∧
      (guarded .vecProbe vecProbeBody s).2.checkpoint = .none) ∧
    ((guarded .aesProbe aesProbeBody s).2.handler = s.handler ∧
      (guarded .aesProbe aesProbeBody s).2.checkpoint = .none) ∧
    ∀ which, (enterProbe which s).handler = .probe ∧ (enterProbe which s).savedHandler = s.handler ∧
      (enterProbe which s).checkpoint = which

/-- 60_exceptions R201, R208: the trap's cause code is 1; trap entry changes nothing but `HA` and `HB` of the issuing context
and the model's count of free values. -/
def Obligations.TrapEntryIsPrecise : Prop :=
  ∀ (s : State) (c : Context), s.contexts[s.cur]? = some c →
    ∃ cause d, (raiseProbeTrap s).1 = .trapped cause ∧ cause.code = 1 ∧
      (raiseProbeTrap s).2.contexts[s.cur]? = some d ∧ d.ga = c.ga ∧ d.gb = c.gb ∧ d.off = c.off ∧
      d.phase = c.phase ∧ SameHostRegs c d ∧ SameShared s (raiseProbeTrap s).2 ∧
      SameOthers s (raiseProbeTrap s).2 ∧ (raiseProbeTrap s).2.mem = s.mem

/-- 44_capability R189, 30_encoding R86 item 4: a CAPQ while the detector runs has no meaning; nor has a second CAPQ, or a
buffer command, on another context in the time of the CAPQ that runs the detector. That the refusal is the running CAPQ's, and
which refusal a buffer command gives, is the model's choice (log entry 13). -/
def Obligations.DetectorRunsAlone : Prop :=
  ∀ (s : State) (c d : Context), s.contexts[s.cur]? = some c →
    (s.det = .probing → exec .capq s = .refused .concurrentDetect) ∧
    ∀ (k : Nat) (i : Instr) (n : Nat) (rest : List HostAction), s.det = .uninit → k ≠ s.cur →
      s.contexts[k]? = some d → s.pending = .cmd s.cur (encode .capq) 1 :: .cmd k (encode i) n :: rest →
      step s = .refused (if i = .capq then .concurrentDetect else .noCapabilityRecord)

/-- 70_reset R232, R234, 30_encoding R86 item 4: right after reset a buffer command is refused for want of the record, and a
CAPQ completes with `DET_STATE = READY`. -/
def Obligations.BootSequence : Prop :=
  (∀ i, IsBuffer i → step (State.reset.withFetchWord 32 (encode i).toNat) = .refused .noCapabilityRecord) ∧
  ∃ t, step (State.reset.withFetchWord 32 (encode .capq).toNat) = .next t ∧ t.det = .ready

/-! ## Admission and overlap -/

/-- 30_encoding R86: a buffer command completes exactly when items 4 to 8 hold. -/
def Obligations.RunsExactlyWhenAdmissible : Prop :=
  ∀ (i : Instr) (s : State), IsBuffer i → ((∃ t, exec i s = .next t) ↔ ∃ c, Admissible i s c)

/-- 30_encoding R86 items 4 to 8, 60_exceptions R203 codes 3 to 10: the first check that fails names the refusal. -/
def Obligations.RefusalOrder : Prop :=
  ∀ (i : Instr) (s : State) (c : Context), IsBuffer i → s.contexts[s.cur]? = some c →
    (s.det ≠ .ready → exec i s = .refused .noCapabilityRecord) ∧
    (s.det = .ready →
      (s.cap.getLsbD 0 = false → exec i s = .refused .notCapable) ∧
      (s.cap.getLsbD 0 = true →
        ((∃ r ∈ operands i, c.argWritten r = false) → exec i s = .refused .unwrittenOperand) ∧
        ((∀ r ∈ operands i, c.argWritten r = true) →
          (c.argLen % 64 ≠ 0 → exec i s = .refused .sizeNotMultipleOf64) ∧
          (c.argLen % 64 = 0 →
            ((∃ x ∈ regions i c, 2 ^ s.cfg.addrBits < x.base + x.size) → exec i s = .refused .addressRange) ∧
            ((∀ x ∈ regions i c, x.base + x.size ≤ 2 ^ s.cfg.addrBits) →
              ((∃ x ∈ regions i c, x.base % s.cfg.bufAlign ≠ 0) → exec i s = .refused .misaligned) ∧
              ((∀ x ∈ regions i c, x.base % s.cfg.bufAlign = 0) →
                ((¬ (regions i c).Pairwise fun x y => ∀ a, ¬ (InSpan a x ∧ InSpan a y)) →
                  exec i s = .refused .overlap) ∧
                (((regions i c).Pairwise fun x y => ∀ a, ¬ (InSpan a x ∧ InSpan a y)) →
                  ((∃ x ∈ readSpans i c, ∃ a, InSpan a x ∧ ¬ Readable s.cfg a) ∨
                    ∃ x ∈ writeSpans i c, ∃ a, InSpan a x ∧ ¬ Writable s.cfg a) →
                  exec i s = .refused .notBacked)))))))

/-- 20_memory R64: while an admissible buffer command runs, a store to a byte it reads or writes and a load of a byte it writes
are races. Beside any other store or load it completes with its own effect, which R64 leaves it; that the access is then the
machine's next action is the model's choice (log entry 12). -/
def Obligations.OverlappingAccessIsRace : Prop :=
  ∀ (i : Instr) (s : State) (k : Nat) (c : Context) (a : Nat) (rest : List HostAction), IsBuffer i →
    Admissible i { s with cur := k } c →
    (∀ b, s.pending = .cmd k (encode i) 1 :: .store a b :: rest →
      ((∃ x ∈ readSpans i c ++ writeSpans i c, InSpan a x) → step s = .refused .race) ∧
      ((∀ x ∈ readSpans i c ++ writeSpans i c, ¬ InSpan a x) → ∃ t, step s = .next t ∧
        exec i { s with
          pending := .store a b :: rest, cur := k, contexts := s.contexts.set k { c with cmd := encode i } } = .next t)) ∧
    (s.pending = .cmd k (encode i) 1 :: .load a :: rest →
      ((∃ x ∈ writeSpans i c, InSpan a x) → step s = .refused .race) ∧
      ((∀ x ∈ writeSpans i c, ¬ InSpan a x) → ∃ t, step s = .next t ∧
        exec i { s with
          pending := .load a :: rest, cur := k, contexts := s.contexts.set k { c with cmd := encode i } } = .next t))

/-! ## The host -/

/-- 10_state R26: a write of an operand register stores the value, marks the register written, and changes nothing else. -/
def Obligations.OperandRegisterWrite : Prop :=
  ∀ (s : State) (k : Nat) (c : Context) (r : ArgReg) (v : Nat) (rest : List HostAction),
    s.pending = .arg k r v :: rest → s.contexts[k]? = some c → v < 2 ^ s.cfg.addrBits →
    ∃ t d, step s = .next t ∧ t.contexts[k]? = some d ∧ d.arg r = v ∧ d.argWritten r = true ∧
      (∀ q, q ≠ r → d.arg q = c.arg q ∧ d.argWritten q = c.argWritten q) ∧ SameScratch c d ∧ d.cmd = c.cmd ∧
      d.res = c.res ∧ (∀ j, j ≠ k → t.contexts[j]? = s.contexts[j]?) ∧
      SameShared { s with pending := rest } t ∧ t.mem = s.mem

/-- 30_encoding R90: the order of the operand writes among themselves has no effect. -/
def Obligations.OperandWriteOrder : Prop :=
  ∀ (s : State) (k : Nat) (r q : ArgReg) (v u : Nat), r ≠ q →
    (s.setArgOf k r v).setArgOf k q u = (s.setArgOf k q u).setArgOf k r v

/-- 20_memory R54, R55: a 64-byte store then a load of the same address gives the block stored; every byte outside the 64
keeps its value; memory stays canonical. -/
def Obligations.BlockStoreThenLoad : Prop :=
  ∀ (m : Memory) (a : Nat) (v : Block), Memory.wf m = true →
    Memory.readBlock (Memory.writeBlock m a v) a = v ∧
    (∀ x, (x < a ∨ a + 64 ≤ x) → Memory.read (Memory.writeBlock m a v) x = Memory.read m x) ∧
    Memory.wf (Memory.writeBlock m a v) = true

/-- 20_memory R54, R63: a host store to a backed byte is what the next read of it gives and changes no other byte; a host load
changes nothing. -/
def Obligations.HostMemoryAccess : Prop :=
  ∀ (s : State) (a : Nat) (rest : List HostAction), Memory.wf s.mem = true →
    (∀ b, s.pending = .store a b :: rest → Writable s.cfg a →
      ∃ t, step s = .next t ∧ t.hostReadMem a = b ∧ (∀ x, x ≠ a → t.hostReadMem x = s.hostReadMem x) ∧
        t = { s with pending := rest, mem := t.mem }) ∧
    (s.pending = .load a :: rest → Readable s.cfg a → step s = .next { s with pending := rest })

/-- 70_reset R230: reset from any state: `DET_STATE = UNINIT`, `CHECKPOINT = NONE`, `PHASE = IDLE` and no operand register
written in every context; the configuration, memory and `HANDLER` untouched. -/
def Obligations.ResetFromAnyState : Prop :=
  ∀ (s : State) (rest : List HostAction), s.pending = .reset :: rest →
    ∃ t, step s = .next t ∧ t.det = .uninit ∧ t.checkpoint = .none ∧
      (∀ c ∈ t.contexts, c.phase = .idle ∧ ∀ r, c.argWritten r = false) ∧
      t.contexts.length = s.contexts.length ∧ t.cfg = s.cfg ∧ t.mem = s.mem ∧ t.handler = s.handler ∧
      t.pending = rest

/-- 10_state R39: what the spec states of the machine after reset, and the model defaults of 00_scope R8. -/
def Obligations.ResetState : Prop :=
  State.reset.det = .uninit ∧ State.reset.checkpoint = .none ∧ State.reset.contexts ≠ [] ∧
  (∀ c ∈ State.reset.contexts, c.phase = .idle ∧ ∀ r, c.argWritten r = false) ∧ State.reset.pending = [] ∧
  State.reset.cfg.addrBits = 64 ∧ State.reset.cfg.bufAlign = 64 ∧
  ∀ i : Fin 64, State.reset.cfg.katInput[i] = if i.val % 8 = 0 then BitVec.ofNat 8 (i.val / 8 + 1) else 0#8

/-! ## Invariants -/

/-- The invariant holds right after reset. It says nothing of `CAP` there, which has no value before `READY`. -/
def Obligations.ResetMeetsInvariant : Prop := Inv State.reset

/-- Every step keeps the invariant, from every state that meets it (10_state R24 to R26, R32 to R35; 20_memory R50). -/
def Obligations.StepKeepsInvariant : Prop := ∀ s t : State, Inv s → step s = .next t → Inv t

/-- 10_state R36, R37: no step writes the constants store, the table store or any other parameter, nor changes the number of
contexts. -/
def Obligations.ConfigurationNeverChanges : Prop :=
  ∀ s t : State, step s = .next t → t.cfg = s.cfg ∧ t.contexts.length = s.contexts.length

/-- 10_state R33, R34, 70_reset R230: `DET_STATE` goes from `UNINIT` to `READY` by a CAPQ only, stays `READY` with the same
`CAP` through every step but a reset, and a step that is not a reset keeps `CAP` unless it made it `READY`. -/
def Obligations.RecordFixedOnceReady : Prop :=
  ∀ (s t : State), step s = .next t → (∀ rest, s.pending ≠ .reset :: rest) →
    (s.det = .ready → t.det = .ready ∧ t.cap = s.cap) ∧
    (s.det = .uninit → (t.det = .uninit ∧ t.cap = s.cap) ∨
      (t.det = .ready ∧ ∃ k window rest, s.pending = .cmd k (encode .capq) window :: rest))

/-! ## The rounds of the generators -/

/-- 42_generator R148, R153: chunk `k` of a fill is `k + 1` steps from the loaded state, where a step applies `INVROUNDXOR` to
pair A and `FWDROUND` to pair B, each on its own: FILL1 once, with `G1K_A` and `G1K_B`; FILL4 four times, with `G4K_A[r]` and
`G4K_B[r]` for `r = 0, 1, 2, 3` in order. 40_tables R118: with the default `TBL1` the lanes of a FILL1 chunk are 128-bit rounds
of the lanes of the state bytes, `inv128` on lanes 0 and 2, `fwd128` on lanes 1 and 3. -/
def Obligations.GeneratorRounds : Prop :=
  ∀ (cfg : Config) (st : Block) (m k : Nat), k < m →
    ∃ one four, (fill1Out cfg st m)[k]? = some one ∧ (fill4Out cfg st m)[k]? = some four ∧
      let key := cfg.constants
      gather cfg.tbl1 one =
        { a := (invRoundXor · key.g1kA)^[k + 1] (gather cfg.tbl1 st).a
          b := (fwdRound · key.g1kB)^[k + 1] (gather cfg.tbl1 st).b } ∧
      gather cfg.tbl4 four =
        { a := (fun p => [0, 1, 2, 3].foldl (fun p (r : Fin 4) => invRoundXor p key.g4kA[r]) p)^[k + 1] (gather cfg.tbl4 st).a
          b := (fun p => [0, 1, 2, 3].foldl (fun p (r : Fin 4) => fwdRound p key.g4kB[r]) p)^[k + 1]
            (gather cfg.tbl4 st).b } ∧
      (cfg.tbl1 = tbl1Default →
        laneOf one 0 = (inv128 · (subLane0 key.g1kA))^[k + 1] (laneOf st 0) ∧
        laneOf one 1 = (fwd128 · (subLane0 key.g1kB))^[k + 1] (laneOf st 1) ∧
        laneOf one 2 = (inv128 · (subLane1 key.g1kA))^[k + 1] (laneOf st 2) ∧
        laneOf one 3 = (fwd128 · (subLane1 key.g1kB))^[k + 1] (laneOf st 3))
end

