-- ==== Sys2Proof/Laws/State.lean ====
section
/-! SUPPORT. One lemma per field per update of the records the machine is made of, so that no proof unfolds an update. -/

namespace Sys2Proof.Machine

/-! ### Registers of a context -/

@[simp] theorem Context.setHash_ha (c : Context) (l : LaneState) : (c.setHash l).ha = l.a := rfl
@[simp] theorem Context.setHash_hb (c : Context) (l : LaneState) : (c.setHash l).hb = l.b := rfl
@[simp] theorem Context.setHash_ga (c : Context) (l : LaneState) : (c.setHash l).ga = c.ga := rfl
@[simp] theorem Context.setHash_gb (c : Context) (l : LaneState) : (c.setHash l).gb = c.gb := rfl
@[simp] theorem Context.setHash_off (c : Context) (l : LaneState) : (c.setHash l).off = c.off := rfl
@[simp] theorem Context.setHash_phase (c : Context) (l : LaneState) : (c.setHash l).phase = c.phase := rfl
@[simp] theorem Context.setHash_cmd (c : Context) (l : LaneState) : (c.setHash l).cmd = c.cmd := rfl
@[simp] theorem Context.setHash_argBuf (c : Context) (l : LaneState) : (c.setHash l).argBuf = c.argBuf := rfl
@[simp] theorem Context.setHash_argLen (c : Context) (l : LaneState) : (c.setHash l).argLen = c.argLen := rfl
@[simp] theorem Context.setHash_argState (c : Context) (l : LaneState) : (c.setHash l).argState = c.argState := rfl
@[simp] theorem Context.setHash_argDigest (c : Context) (l : LaneState) : (c.setHash l).argDigest = c.argDigest := rfl
@[simp] theorem Context.setHash_bufWritten (c : Context) (l : LaneState) : (c.setHash l).bufWritten = c.bufWritten := rfl
@[simp] theorem Context.setHash_lenWritten (c : Context) (l : LaneState) : (c.setHash l).lenWritten = c.lenWritten := rfl
@[simp] theorem Context.setHash_stateWritten (c : Context) (l : LaneState) : (c.setHash l).stateWritten = c.stateWritten := rfl
@[simp] theorem Context.setHash_digestWritten (c : Context) (l : LaneState) : (c.setHash l).digestWritten = c.digestWritten := rfl
@[simp] theorem Context.setHash_res (c : Context) (l : LaneState) : (c.setHash l).res = c.res := rfl
@[simp] theorem Context.setGen_ha (c : Context) (l : LaneState) : (c.setGen l).ha = c.ha := rfl
@[simp] theorem Context.setGen_hb (c : Context) (l : LaneState) : (c.setGen l).hb = c.hb := rfl
@[simp] theorem Context.setGen_ga (c : Context) (l : LaneState) : (c.setGen l).ga = l.a := rfl
@[simp] theorem Context.setGen_gb (c : Context) (l : LaneState) : (c.setGen l).gb = l.b := rfl
@[simp] theorem Context.setGen_off (c : Context) (l : LaneState) : (c.setGen l).off = c.off := rfl
@[simp] theorem Context.setGen_phase (c : Context) (l : LaneState) : (c.setGen l).phase = c.phase := rfl
@[simp] theorem Context.setGen_cmd (c : Context) (l : LaneState) : (c.setGen l).cmd = c.cmd := rfl
@[simp] theorem Context.setGen_argBuf (c : Context) (l : LaneState) : (c.setGen l).argBuf = c.argBuf := rfl
@[simp] theorem Context.setGen_argLen (c : Context) (l : LaneState) : (c.setGen l).argLen = c.argLen := rfl
@[simp] theorem Context.setGen_argState (c : Context) (l : LaneState) : (c.setGen l).argState = c.argState := rfl
@[simp] theorem Context.setGen_argDigest (c : Context) (l : LaneState) : (c.setGen l).argDigest = c.argDigest := rfl
@[simp] theorem Context.setGen_bufWritten (c : Context) (l : LaneState) : (c.setGen l).bufWritten = c.bufWritten := rfl
@[simp] theorem Context.setGen_lenWritten (c : Context) (l : LaneState) : (c.setGen l).lenWritten = c.lenWritten := rfl
@[simp] theorem Context.setGen_stateWritten (c : Context) (l : LaneState) : (c.setGen l).stateWritten = c.stateWritten := rfl
@[simp] theorem Context.setGen_digestWritten (c : Context) (l : LaneState) : (c.setGen l).digestWritten = c.digestWritten := rfl
@[simp] theorem Context.setGen_res (c : Context) (l : LaneState) : (c.setGen l).res = c.res := rfl
@[simp] theorem Context.setPhase_ha (c : Context) (p : Phase) : (c.setPhase p).ha = c.ha := rfl
@[simp] theorem Context.setPhase_hb (c : Context) (p : Phase) : (c.setPhase p).hb = c.hb := rfl
@[simp] theorem Context.setPhase_ga (c : Context) (p : Phase) : (c.setPhase p).ga = c.ga := rfl
@[simp] theorem Context.setPhase_gb (c : Context) (p : Phase) : (c.setPhase p).gb = c.gb := rfl
@[simp] theorem Context.setPhase_off (c : Context) (p : Phase) : (c.setPhase p).off = c.off := rfl
@[simp] theorem Context.setPhase_phase (c : Context) (p : Phase) : (c.setPhase p).phase = p := rfl
@[simp] theorem Context.setPhase_cmd (c : Context) (p : Phase) : (c.setPhase p).cmd = c.cmd := rfl
@[simp] theorem Context.setPhase_argBuf (c : Context) (p : Phase) : (c.setPhase p).argBuf = c.argBuf := rfl
@[simp] theorem Context.setPhase_argLen (c : Context) (p : Phase) : (c.setPhase p).argLen = c.argLen := rfl
@[simp] theorem Context.setPhase_argState (c : Context) (p : Phase) : (c.setPhase p).argState = c.argState := rfl
@[simp] theorem Context.setPhase_argDigest (c : Context) (p : Phase) : (c.setPhase p).argDigest = c.argDigest := rfl
@[simp] theorem Context.setPhase_bufWritten (c : Context) (p : Phase) : (c.setPhase p).bufWritten = c.bufWritten := rfl
@[simp] theorem Context.setPhase_lenWritten (c : Context) (p : Phase) : (c.setPhase p).lenWritten = c.lenWritten := rfl
@[simp] theorem Context.setPhase_stateWritten (c : Context) (p : Phase) : (c.setPhase p).stateWritten = c.stateWritten := rfl
@[simp] theorem Context.setPhase_digestWritten (c : Context) (p : Phase) : (c.setPhase p).digestWritten = c.digestWritten := rfl
@[simp] theorem Context.setPhase_res (c : Context) (p : Phase) : (c.setPhase p).res = c.res := rfl
@[simp] theorem Context.forget_ha (c : Context) (cfg : Config) (n : Nat) : (c.forget cfg n).ha = Config.freePair n := rfl
@[simp] theorem Context.forget_hb (c : Context) (cfg : Config) (n : Nat) : (c.forget cfg n).hb = Config.freePair (n + 1) := rfl
@[simp] theorem Context.forget_ga (c : Context) (cfg : Config) (n : Nat) : (c.forget cfg n).ga = Config.freePair (n + 2) := rfl
@[simp] theorem Context.forget_gb (c : Context) (cfg : Config) (n : Nat) : (c.forget cfg n).gb = Config.freePair (n + 3) := rfl
@[simp] theorem Context.forget_off (c : Context) (cfg : Config) (n : Nat) : (c.forget cfg n).off = freeOff cfg (n + 4) := rfl
@[simp] theorem Context.forget_phase (c : Context) (cfg : Config) (n : Nat) : (c.forget cfg n).phase = c.phase := rfl
@[simp] theorem Context.forget_cmd (c : Context) (cfg : Config) (n : Nat) : (c.forget cfg n).cmd = c.cmd := rfl
@[simp] theorem Context.forget_argBuf (c : Context) (cfg : Config) (n : Nat) : (c.forget cfg n).argBuf = c.argBuf := rfl
@[simp] theorem Context.forget_argLen (c : Context) (cfg : Config) (n : Nat) : (c.forget cfg n).argLen = c.argLen := rfl
@[simp] theorem Context.forget_argState (c : Context) (cfg : Config) (n : Nat) : (c.forget cfg n).argState = c.argState := rfl
@[simp] theorem Context.forget_argDigest (c : Context) (cfg : Config) (n : Nat) : (c.forget cfg n).argDigest = c.argDigest := rfl
@[simp] theorem Context.forget_bufWritten (c : Context) (cfg : Config) (n : Nat) : (c.forget cfg n).bufWritten = c.bufWritten := rfl
@[simp] theorem Context.forget_lenWritten (c : Context) (cfg : Config) (n : Nat) : (c.forget cfg n).lenWritten = c.lenWritten := rfl
@[simp] theorem Context.forget_stateWritten (c : Context) (cfg : Config) (n : Nat) : (c.forget cfg n).stateWritten = c.stateWritten := rfl
@[simp] theorem Context.forget_digestWritten (c : Context) (cfg : Config) (n : Nat) : (c.forget cfg n).digestWritten = c.digestWritten := rfl
@[simp] theorem Context.forget_res (c : Context) (cfg : Config) (n : Nat) : (c.forget cfg n).res = c.res := rfl

/-! ### A running command -/

@[simp] theorem Engine.withCtx_ctx (e : Engine) (c : Context) : (e.withCtx c).ctx = c := rfl
@[simp] theorem Engine.withCtx_mem (e : Engine) (c : Context) : (e.withCtx c).mem = e.mem := rfl
@[simp] theorem Engine.withCtx_trace (e : Engine) (c : Context) : (e.withCtx c).trace = e.trace := rfl
@[simp] theorem Engine.start_ctx (e : Engine) : (e.start).ctx = { e.ctx with off := 0 } := rfl
@[simp] theorem Engine.start_mem (e : Engine) : (e.start).mem = e.mem := rfl
@[simp] theorem Engine.start_trace (e : Engine) : (e.start).trace = e.trace := rfl
@[simp] theorem Engine.advance_ctx (e : Engine) : (e.advance).ctx = { e.ctx with off := e.ctx.off + 64 } := rfl
@[simp] theorem Engine.advance_mem (e : Engine) : (e.advance).mem = e.mem := rfl
@[simp] theorem Engine.advance_trace (e : Engine) : (e.advance).trace = e.trace := rfl
@[simp] theorem Engine.write64_ctx (e : Engine) (a : Nat) (v : Block) : (e.write64 a v).ctx = e.ctx := rfl
@[simp] theorem Engine.write64_mem (e : Engine) (a : Nat) (v : Block) : (e.write64 a v).mem = Memory.writeBlock e.mem a v := rfl
@[simp] theorem Engine.write64_trace (e : Engine) (a : Nat) (v : Block) : (e.write64 a v).trace = e.trace ++ [.write a] := rfl
@[simp] theorem Engine.read64_block (e : Engine) (a : Nat) : (e.read64 a).1 = Memory.readBlock e.mem a := rfl
@[simp] theorem Engine.read64_ctx (e : Engine) (a : Nat) : (e.read64 a).2.ctx = e.ctx := rfl
@[simp] theorem Engine.read64_mem (e : Engine) (a : Nat) : (e.read64 a).2.mem = e.mem := rfl
@[simp] theorem Engine.read64_trace (e : Engine) (a : Nat) : (e.read64 a).2.trace = e.trace ++ [.read a] := rfl

/-! ### The whole state -/

@[simp] theorem State.setCtx_contexts (s : State) (c : Context) : (s.setCtx c).contexts = s.contexts.set s.cur c := rfl
@[simp] theorem State.setCtx_cap (s : State) (c : Context) : (s.setCtx c).cap = s.cap := rfl
@[simp] theorem State.setCtx_det (s : State) (c : Context) : (s.setCtx c).det = s.det := rfl
@[simp] theorem State.setCtx_handler (s : State) (c : Context) : (s.setCtx c).handler = s.handler := rfl
@[simp] theorem State.setCtx_savedHandler (s : State) (c : Context) : (s.setCtx c).savedHandler = s.savedHandler := rfl
@[simp] theorem State.setCtx_checkpoint (s : State) (c : Context) : (s.setCtx c).checkpoint = s.checkpoint := rfl
@[simp] theorem State.setCtx_cfg (s : State) (c : Context) : (s.setCtx c).cfg = s.cfg := rfl
@[simp] theorem State.setCtx_mem (s : State) (c : Context) : (s.setCtx c).mem = s.mem := rfl
@[simp] theorem State.setCtx_cur (s : State) (c : Context) : (s.setCtx c).cur = s.cur := rfl
@[simp] theorem State.setCtx_pending (s : State) (c : Context) : (s.setCtx c).pending = s.pending := rfl
@[simp] theorem State.setCtx_freeCount (s : State) (c : Context) : (s.setCtx c).freeCount = s.freeCount := rfl
@[simp] theorem State.retire_contexts (s : State) (e : Engine) : (s.retire e).contexts = s.contexts.set s.cur (e.ctx.forget s.cfg s.freeCount) := rfl
@[simp] theorem State.retire_cap (s : State) (e : Engine) : (s.retire e).cap = s.cap := rfl
@[simp] theorem State.retire_det (s : State) (e : Engine) : (s.retire e).det = s.det := rfl
@[simp] theorem State.retire_handler (s : State) (e : Engine) : (s.retire e).handler = s.handler := rfl
@[simp] theorem State.retire_savedHandler (s : State) (e : Engine) : (s.retire e).savedHandler = s.savedHandler := rfl
@[simp] theorem State.retire_checkpoint (s : State) (e : Engine) : (s.retire e).checkpoint = s.checkpoint := rfl
@[simp] theorem State.retire_cfg (s : State) (e : Engine) : (s.retire e).cfg = s.cfg := rfl
@[simp] theorem State.retire_mem (s : State) (e : Engine) : (s.retire e).mem = e.mem := rfl
@[simp] theorem State.retire_cur (s : State) (e : Engine) : (s.retire e).cur = s.cur := rfl
@[simp] theorem State.retire_pending (s : State) (e : Engine) : (s.retire e).pending = s.pending := rfl
@[simp] theorem State.retire_freeCount (s : State) (e : Engine) : (s.retire e).freeCount = s.freeCount + 5 := rfl
@[simp] theorem enterProbe_contexts (s : State) (w : Checkpoint) : (enterProbe w s).contexts = s.contexts := rfl
@[simp] theorem enterProbe_cap (s : State) (w : Checkpoint) : (enterProbe w s).cap = s.cap := rfl
@[simp] theorem enterProbe_det (s : State) (w : Checkpoint) : (enterProbe w s).det = s.det := rfl
@[simp] theorem enterProbe_handler (s : State) (w : Checkpoint) : (enterProbe w s).handler = .probe := rfl
@[simp] theorem enterProbe_savedHandler (s : State) (w : Checkpoint) : (enterProbe w s).savedHandler = s.handler := rfl
@[simp] theorem enterProbe_checkpoint (s : State) (w : Checkpoint) : (enterProbe w s).checkpoint = w := rfl
@[simp] theorem enterProbe_cfg (s : State) (w : Checkpoint) : (enterProbe w s).cfg = s.cfg := rfl
@[simp] theorem enterProbe_mem (s : State) (w : Checkpoint) : (enterProbe w s).mem = s.mem := rfl
@[simp] theorem enterProbe_cur (s : State) (w : Checkpoint) : (enterProbe w s).cur = s.cur := rfl
@[simp] theorem enterProbe_pending (s : State) (w : Checkpoint) : (enterProbe w s).pending = s.pending := rfl
@[simp] theorem enterProbe_freeCount (s : State) (w : Checkpoint) : (enterProbe w s).freeCount = s.freeCount := rfl
@[simp] theorem leaveProbe_contexts (s : State) : (leaveProbe s).contexts = s.contexts := rfl
@[simp] theorem leaveProbe_cap (s : State) : (leaveProbe s).cap = s.cap := rfl
@[simp] theorem leaveProbe_det (s : State) : (leaveProbe s).det = s.det := rfl
@[simp] theorem leaveProbe_handler (s : State) : (leaveProbe s).handler = s.savedHandler := rfl
@[simp] theorem leaveProbe_savedHandler (s : State) : (leaveProbe s).savedHandler = .platform (Config.freeHandler s.freeCount) := rfl
@[simp] theorem leaveProbe_checkpoint (s : State) : (leaveProbe s).checkpoint = .none := rfl
@[simp] theorem leaveProbe_cfg (s : State) : (leaveProbe s).cfg = s.cfg := rfl
@[simp] theorem leaveProbe_mem (s : State) : (leaveProbe s).mem = s.mem := rfl
@[simp] theorem leaveProbe_cur (s : State) : (leaveProbe s).cur = s.cur := rfl
@[simp] theorem leaveProbe_pending (s : State) : (leaveProbe s).pending = s.pending := rfl
@[simp] theorem leaveProbe_freeCount (s : State) : (leaveProbe s).freeCount = s.freeCount + 1 := rfl
@[simp] theorem publishCap_contexts (s : State) (v : BitVec 32) : (publishCap v s).contexts = s.contexts := rfl
@[simp] theorem publishCap_cap (s : State) (v : BitVec 32) : (publishCap v s).cap = v := rfl
@[simp] theorem publishCap_det (s : State) (v : BitVec 32) : (publishCap v s).det = .ready := rfl
@[simp] theorem publishCap_handler (s : State) (v : BitVec 32) : (publishCap v s).handler = s.handler := rfl
@[simp] theorem publishCap_savedHandler (s : State) (v : BitVec 32) : (publishCap v s).savedHandler = s.savedHandler := rfl
@[simp] theorem publishCap_checkpoint (s : State) (v : BitVec 32) : (publishCap v s).checkpoint = s.checkpoint := rfl
@[simp] theorem publishCap_cfg (s : State) (v : BitVec 32) : (publishCap v s).cfg = s.cfg := rfl
@[simp] theorem publishCap_mem (s : State) (v : BitVec 32) : (publishCap v s).mem = s.mem := rfl
@[simp] theorem publishCap_cur (s : State) (v : BitVec 32) : (publishCap v s).cur = s.cur := rfl
@[simp] theorem publishCap_pending (s : State) (v : BitVec 32) : (publishCap v s).pending = s.pending := rfl
@[simp] theorem publishCap_freeCount (s : State) (v : BitVec 32) : (publishCap v s).freeCount = s.freeCount := rfl
@[simp] theorem hostReset_contexts (s : State) : (hostReset s).contexts = s.contexts.map fun _ => Context.reset := rfl
@[simp] theorem hostReset_cap (s : State) : (hostReset s).cap = 0#32 := rfl
@[simp] theorem hostReset_det (s : State) : (hostReset s).det = .uninit := rfl
@[simp] theorem hostReset_handler (s : State) : (hostReset s).handler = s.handler := rfl
@[simp] theorem hostReset_savedHandler (s : State) : (hostReset s).savedHandler = .platform 0 := rfl
@[simp] theorem hostReset_checkpoint (s : State) : (hostReset s).checkpoint = .none := rfl
@[simp] theorem hostReset_cfg (s : State) : (hostReset s).cfg = s.cfg := rfl
@[simp] theorem hostReset_mem (s : State) : (hostReset s).mem = s.mem := rfl
@[simp] theorem hostReset_cur (s : State) : (hostReset s).cur = 0 := rfl
@[simp] theorem hostReset_pending (s : State) : (hostReset s).pending = s.pending := rfl
@[simp] theorem hostReset_freeCount (s : State) : (hostReset s).freeCount = s.freeCount := rfl
@[simp] theorem placeWord_contexts (s : State) (w : BitVec 32) : (placeWord s w).contexts = s.contexts := rfl
@[simp] theorem placeWord_cap (s : State) (w : BitVec 32) : (placeWord s w).cap = s.cap := rfl
@[simp] theorem placeWord_det (s : State) (w : BitVec 32) : (placeWord s w).det = s.det := rfl
@[simp] theorem placeWord_handler (s : State) (w : BitVec 32) : (placeWord s w).handler = s.handler := rfl
@[simp] theorem placeWord_savedHandler (s : State) (w : BitVec 32) : (placeWord s w).savedHandler = s.savedHandler := rfl
@[simp] theorem placeWord_checkpoint (s : State) (w : BitVec 32) : (placeWord s w).checkpoint = s.checkpoint := rfl
@[simp] theorem placeWord_cfg (s : State) (w : BitVec 32) : (placeWord s w).cfg = s.cfg := rfl
@[simp] theorem placeWord_mem (s : State) (w : BitVec 32) : (placeWord s w).mem = s.mem := rfl
@[simp] theorem placeWord_cur (s : State) (w : BitVec 32) : (placeWord s w).cur = s.cur := rfl
@[simp] theorem placeWord_pending (s : State) (w : BitVec 32) : (placeWord s w).pending = .cmd s.cur w 0 :: s.pending := rfl
@[simp] theorem placeWord_freeCount (s : State) (w : BitVec 32) : (placeWord s w).freeCount = s.freeCount := rfl

/-! ### Updates of a context that may not exist: every field but the contexts -/

@[simp] theorem State.forgetHash_cap (s : State) : (s.forgetHash).cap = s.cap := by
  unfold State.forgetHash; split <;> rfl
@[simp] theorem State.forgetHash_det (s : State) : (s.forgetHash).det = s.det := by
  unfold State.forgetHash; split <;> rfl
@[simp] theorem State.forgetHash_handler (s : State) : (s.forgetHash).handler = s.handler := by
  unfold State.forgetHash; split <;> rfl
@[simp] theorem State.forgetHash_savedHandler (s : State) : (s.forgetHash).savedHandler = s.savedHandler := by
  unfold State.forgetHash; split <;> rfl
@[simp] theorem State.forgetHash_checkpoint (s : State) : (s.forgetHash).checkpoint = s.checkpoint := by
  unfold State.forgetHash; split <;> rfl
@[simp] theorem State.forgetHash_cfg (s : State) : (s.forgetHash).cfg = s.cfg := by
  unfold State.forgetHash; split <;> rfl
@[simp] theorem State.forgetHash_mem (s : State) : (s.forgetHash).mem = s.mem := by
  unfold State.forgetHash; split <;> rfl
@[simp] theorem State.forgetHash_cur (s : State) : (s.forgetHash).cur = s.cur := by
  unfold State.forgetHash; split <;> rfl
@[simp] theorem State.forgetHash_pending (s : State) : (s.forgetHash).pending = s.pending := by
  unfold State.forgetHash; split <;> rfl
@[simp] theorem publishRes_cap (s : State) : (publishRes s).cap = s.cap := by
  unfold publishRes; split <;> rfl
@[simp] theorem publishRes_det (s : State) : (publishRes s).det = s.det := by
  unfold publishRes; split <;> rfl
@[simp] theorem publishRes_handler (s : State) : (publishRes s).handler = s.handler := by
  unfold publishRes; split <;> rfl
@[simp] theorem publishRes_savedHandler (s : State) : (publishRes s).savedHandler = s.savedHandler := by
  unfold publishRes; split <;> rfl
@[simp] theorem publishRes_checkpoint (s : State) : (publishRes s).checkpoint = s.checkpoint := by
  unfold publishRes; split <;> rfl
@[simp] theorem publishRes_cfg (s : State) : (publishRes s).cfg = s.cfg := by
  unfold publishRes; split <;> rfl
@[simp] theorem publishRes_mem (s : State) : (publishRes s).mem = s.mem := by
  unfold publishRes; split <;> rfl
@[simp] theorem publishRes_cur (s : State) : (publishRes s).cur = s.cur := by
  unfold publishRes; split <;> rfl
@[simp] theorem publishRes_pending (s : State) : (publishRes s).pending = s.pending := by
  unfold publishRes; split <;> rfl
@[simp] theorem publishRes_freeCount (s : State) : (publishRes s).freeCount = s.freeCount := by
  unfold publishRes; split <;> rfl
@[simp] theorem State.select_cap (s : State) (k : Nat) (w : BitVec 32) : (s.select k w).cap = s.cap := by
  unfold State.select; split <;> rfl
@[simp] theorem State.select_det (s : State) (k : Nat) (w : BitVec 32) : (s.select k w).det = s.det := by
  unfold State.select; split <;> rfl
@[simp] theorem State.select_handler (s : State) (k : Nat) (w : BitVec 32) : (s.select k w).handler = s.handler := by
  unfold State.select; split <;> rfl
@[simp] theorem State.select_savedHandler (s : State) (k : Nat) (w : BitVec 32) : (s.select k w).savedHandler = s.savedHandler := by
  unfold State.select; split <;> rfl
@[simp] theorem State.select_checkpoint (s : State) (k : Nat) (w : BitVec 32) : (s.select k w).checkpoint = s.checkpoint := by
  unfold State.select; split <;> rfl
@[simp] theorem State.select_cfg (s : State) (k : Nat) (w : BitVec 32) : (s.select k w).cfg = s.cfg := by
  unfold State.select; split <;> rfl
@[simp] theorem State.select_mem (s : State) (k : Nat) (w : BitVec 32) : (s.select k w).mem = s.mem := by
  unfold State.select; split <;> rfl
@[simp] theorem State.select_pending (s : State) (k : Nat) (w : BitVec 32) : (s.select k w).pending = s.pending := by
  unfold State.select; split <;> rfl
@[simp] theorem State.select_freeCount (s : State) (k : Nat) (w : BitVec 32) : (s.select k w).freeCount = s.freeCount := by
  unfold State.select; split <;> rfl
@[simp] theorem State.setArgOf_cap (s : State) (k : Nat) (r : ArgReg) (v : Nat) : (s.setArgOf k r v).cap = s.cap := by
  unfold State.setArgOf; split <;> rfl
@[simp] theorem State.setArgOf_det (s : State) (k : Nat) (r : ArgReg) (v : Nat) : (s.setArgOf k r v).det = s.det := by
  unfold State.setArgOf; split <;> rfl
@[simp] theorem State.setArgOf_handler (s : State) (k : Nat) (r : ArgReg) (v : Nat) : (s.setArgOf k r v).handler = s.handler := by
  unfold State.setArgOf; split <;> rfl
@[simp] theorem State.setArgOf_savedHandler (s : State) (k : Nat) (r : ArgReg) (v : Nat) : (s.setArgOf k r v).savedHandler = s.savedHandler := by
  unfold State.setArgOf; split <;> rfl
@[simp] theorem State.setArgOf_checkpoint (s : State) (k : Nat) (r : ArgReg) (v : Nat) : (s.setArgOf k r v).checkpoint = s.checkpoint := by
  unfold State.setArgOf; split <;> rfl
@[simp] theorem State.setArgOf_cfg (s : State) (k : Nat) (r : ArgReg) (v : Nat) : (s.setArgOf k r v).cfg = s.cfg := by
  unfold State.setArgOf; split <;> rfl
@[simp] theorem State.setArgOf_mem (s : State) (k : Nat) (r : ArgReg) (v : Nat) : (s.setArgOf k r v).mem = s.mem := by
  unfold State.setArgOf; split <;> rfl
@[simp] theorem State.setArgOf_cur (s : State) (k : Nat) (r : ArgReg) (v : Nat) : (s.setArgOf k r v).cur = s.cur := by
  unfold State.setArgOf; split <;> rfl
@[simp] theorem State.setArgOf_pending (s : State) (k : Nat) (r : ArgReg) (v : Nat) : (s.setArgOf k r v).pending = s.pending := by
  unfold State.setArgOf; split <;> rfl
@[simp] theorem State.setArgOf_freeCount (s : State) (k : Nat) (r : ArgReg) (v : Nat) : (s.setArgOf k r v).freeCount = s.freeCount := by
  unfold State.setArgOf; split <;> rfl

/-! ### The same updates when the context exists -/

theorem State.forgetHash_eq {s : State} {c : Context} (h : s.contexts[s.cur]? = some c) :
    s.forgetHash = { s with
      contexts := s.contexts.set s.cur
        { c with ha := Config.freePair s.freeCount, hb := Config.freePair (s.freeCount + 1) }
      freeCount := s.freeCount + 2 } := by
  unfold State.forgetHash; rw [h]; rfl

theorem publishRes_eq {s : State} {c : Context} (h : s.contexts[s.cur]? = some c) :
    publishRes s = s.setCtx { c with res := s.cap } := by
  unfold publishRes; rw [h]

theorem State.select_eq {s : State} {k : Nat} {c : Context} (h : s.contexts[k]? = some c) (w : BitVec 32) :
    s.select k w = { s with cur := k, contexts := s.contexts.set k { c with cmd := w } } := by
  unfold State.select; rw [h]

theorem State.setArgOf_eq {s : State} {k : Nat} {c : Context} (h : s.contexts[k]? = some c) (r : ArgReg) (v : Nat) :
    s.setArgOf k r v = { s with contexts := s.contexts.set k (c.setArg v r) } := by
  unfold State.setArgOf; rw [h]

/-! ### The number of contexts never changes (10_state R28) -/

@[simp] theorem State.forgetHash_nctx (s : State) : s.forgetHash.contexts.length = s.contexts.length := by
  unfold State.forgetHash; split <;> simp

@[simp] theorem publishRes_nctx (s : State) : (publishRes s).contexts.length = s.contexts.length := by
  unfold publishRes; split <;> simp

@[simp] theorem State.select_nctx (s : State) (k : Nat) (w : BitVec 32) :
    (s.select k w).contexts.length = s.contexts.length := by
  unfold State.select; split <;> simp

@[simp] theorem State.setArgOf_nctx (s : State) (k : Nat) (r : ArgReg) (v : Nat) :
    (s.setArgOf k r v).contexts.length = s.contexts.length := by
  unfold State.setArgOf; split <;> simp

/-! ### Reading an operand register back (10_state R26) -/

@[simp] theorem Context.setArg_arg (c : Context) (v : Nat) (r q : ArgReg) :
    (c.setArg v r).arg q = if q = r then v else c.arg q := by
  cases r <;> cases q <;> rfl

@[simp] theorem Context.setArg_argWritten (c : Context) (v : Nat) (r q : ArgReg) :
    (c.setArg v r).argWritten q = if q = r then true else c.argWritten q := by
  cases r <;> cases q <;> rfl

@[simp] theorem Context.setArg_ha (c : Context) (v : Nat) (r : ArgReg) : (c.setArg v r).ha = c.ha := by
  cases r <;> rfl
@[simp] theorem Context.setArg_hb (c : Context) (v : Nat) (r : ArgReg) : (c.setArg v r).hb = c.hb := by
  cases r <;> rfl
@[simp] theorem Context.setArg_ga (c : Context) (v : Nat) (r : ArgReg) : (c.setArg v r).ga = c.ga := by
  cases r <;> rfl
@[simp] theorem Context.setArg_gb (c : Context) (v : Nat) (r : ArgReg) : (c.setArg v r).gb = c.gb := by
  cases r <;> rfl
@[simp] theorem Context.setArg_off (c : Context) (v : Nat) (r : ArgReg) : (c.setArg v r).off = c.off := by
  cases r <;> rfl
@[simp] theorem Context.setArg_phase (c : Context) (v : Nat) (r : ArgReg) : (c.setArg v r).phase = c.phase := by
  cases r <;> rfl
@[simp] theorem Context.setArg_cmd (c : Context) (v : Nat) (r : ArgReg) : (c.setArg v r).cmd = c.cmd := by
  cases r <;> rfl
@[simp] theorem Context.setArg_res (c : Context) (v : Nat) (r : ArgReg) : (c.setArg v r).res = c.res := by
  cases r <;> rfl

end Sys2Proof.Machine
end

