-- ==== Sys2Proof/Laws/Admission.lean ====
section
/-! SUPPORT. Admission says exactly what 30_encoding R86 items 4 to 8 say, and a buffer command runs exactly when it is
admitted. -/

namespace Sys2Proof.Machine

open Sys2Proof.Safety

/-- What a well-formed configuration satisfies (00_scope R8, 20_memory R50, 41_hash R132). -/
theorem config_wf_iff {c : Config} :
    c.wf = true ↔ 7 ≤ c.addrBits ∧ 64 % c.bufAlign = 0 ∧ c.bufAlign ≠ 0 ∧
      (∀ r ∈ c.launch, r.base + r.size ≤ 2 ^ c.addrBits) ∧ c.constants.hInitA ≠ c.constants.hInitB := by
  simp [Sys2Proof.Config.wf, Config.distinctSeeds, Region.inSpace, and_assoc]

theorem firstRefusal_none {l : List (Bool × Refusal)} : firstRefusal l = none ↔ ∀ p ∈ l, p.1 = false := by
  induction l with
  | nil => simp [firstRefusal]
  | cons p l ih =>
    obtain ⟨b, r⟩ := p
    cases b <;> simp [firstRefusal, ih]

theorem Region.contains_iff {r : Region} {a : Nat} :
    Region.contains r a = true ↔ r.base ≤ a ∧ a < r.base + r.size := by
  simp [Region.contains]

theorem backsRead_iff {cfg : Config} {a : Nat} : backsRead cfg a = true ↔ Readable cfg a := by
  simp [backsRead, Readable, Region.contains_iff]

theorem backsWrite_iff {cfg : Config} {a : Nat} : backsWrite cfg a = true ↔ Writable cfg a := by
  simp [backsWrite, Writable, Region.contains_iff]

theorem Span.all_iff {x : Span} {p : Nat → Bool} : x.all p = true ↔ ∀ a, InSpan a x → p a = true := by
  simp only [Span.all, List.all_eq_true, List.mem_range, InSpan]
  constructor
  · intro h a ha
    have := h (a - x.base) (by omega)
    rwa [show x.base + (a - x.base) = a by omega] at this
  · intro h i hi
    exact h _ ⟨by omega, by omega⟩

/-- `meets` is sharing an address. -/
theorem Span.meets_iff {x y : Span} : x.meets y = true ↔ ∃ a, InSpan a x ∧ InSpan a y := by
  simp only [Span.meets, Bool.and_eq_true, bne_iff_ne, decide_eq_true_eq, InSpan]
  constructor
  · rintro ⟨⟨⟨h1, h2⟩, h3⟩, h4⟩
    exact ⟨max x.base y.base, by omega, by omega⟩
  · rintro ⟨a, h1, h2⟩
    omega

theorem anyMeet_iff {xs ys : List Span} :
    anyMeet xs ys = true ↔ ∃ x ∈ xs, ∃ y ∈ ys, ∃ a, InSpan a x ∧ InSpan a y := by
  simp [anyMeet, Span.meets_iff]

theorem overlapping_false_iff {l : List Span} :
    overlapping l = false ↔ l.Pairwise fun x y => ∀ a, ¬ (InSpan a x ∧ InSpan a y) := by
  induction l with
  | nil => simp [overlapping]
  | cons x l ih =>
    rw [overlapping, Bool.or_eq_false_iff, ih, List.pairwise_cons]
    refine and_congr_left fun _ => ?_
    rw [Bool.eq_false_iff, ne_eq, List.any_eq_true]
    simp only [Span.meets_iff]
    constructor
    · intro h y hy a ha
      exact h ⟨y, hy, a, ha⟩
    · rintro h ⟨y, hy, a, ha⟩
      exact h y hy a ha

/-- Admission succeeds exactly when the command is admissible (30_encoding R86). -/
theorem admission_none_iff {i : Instr} {s : State} {c : Context} (hc : s.contexts[s.cur]? = some c) :
    admission i s c = none ↔ Admissible i s c := by
  rw [admission, firstRefusal_none]
  simp only [List.mem_cons, List.not_mem_nil, or_false, forall_eq_or_imp, forall_eq, bne_eq_false_iff_eq,
    Bool.not_eq_false', capAes, someUnwritten, someUnbacked, overlapping_false_iff, Bool.or_eq_false_iff,
    List.all_eq_true, Span.all_iff, backsRead_iff, backsWrite_iff, List.any_eq_false, Bool.not_eq_true,
    outOfRange, notAligned, decide_eq_false_iff_not, Nat.not_lt]
  constructor
  · rintro ⟨h1, h2, h3, h4, h5, h6, h7, h8, h9⟩
    exact ⟨hc, h1, h2, h3, h4, h5, h6, h7, h8, h9⟩
  · rintro ⟨-, h1, h2, h3, h4, h5, h6, h7, h8, h9⟩
    exact ⟨h1, h2, h3, h4, h5, h6, h7, h8, h9⟩

/-- An admissible buffer command runs. -/
theorem runBuffer_admissible {i : Instr} {body : Config → Engine → Engine} {s : State} {c : Context}
    (h : Admissible i s c) :
    runBuffer i body s = .next (s.retire (body s.cfg { ctx := c, mem := s.mem, trace := [] })) := by
  rw [runBuffer, h.current]
  simp only [(admission_none_iff h.current).2 h]

/-- What a buffer command that runs has done. -/
theorem runBuffer_next {i : Instr} {body : Config → Engine → Engine} {s t : State}
    (h : runBuffer i body s = .next t) :
    ∃ c, Admissible i s c ∧ t = s.retire (body s.cfg { ctx := c, mem := s.mem, trace := [] }) := by
  unfold runBuffer at h
  split at h
  · cases h
  · rename_i c hc
    split at h
    · cases h
    · rename_i ha
      cases h
      exact ⟨c, (admission_none_iff hc).1 ha, rfl⟩

/-- A buffer command that is refused is refused by admission, or has no context. -/
theorem runBuffer_refused {i : Instr} {body : Config → Engine → Engine} {s : State} {c : Context} {r : Refusal}
    (hc : s.contexts[s.cur]? = some c) (h : admission i s c = some r) : runBuffer i body s = .refused r := by
  rw [runBuffer, hc]
  simp only [h]

theorem admissible_lt {i : Instr} {s : State} {c : Context} (h : Admissible i s c) : s.cur < s.contexts.length :=
  (List.getElem?_eq_some_iff.1 h.current).1

/-- The current context after a command has retired. -/
theorem retire_current {s : State} (e : Engine) (h : s.cur < s.contexts.length) :
    (s.retire e).contexts[s.cur]? = some (e.ctx.forget s.cfg s.freeCount) := by
  simp [h]

end Sys2Proof.Machine
end

