-- ==== Sys2Proof/Laws/Memory.lean ====
section
/-! SUPPORT. The laws of memory: what a read after a write gives, and that every operation keeps the canonical form. -/

namespace Sys2Proof.Machine

/-! ### The canonical form -/

theorem Memory.wfFrom_mono {lo lo' : Nat} {m : Memory} (h : lo ≤ lo') (hm : Memory.wfFrom lo' m = true) :
    Memory.wfFrom lo m = true := by
  cases m with
  | nil => rfl
  | cons p m =>
    obtain ⟨a, b⟩ := p
    simp only [Memory.wfFrom, Bool.and_eq_true, decide_eq_true_eq] at hm ⊢
    exact ⟨⟨by omega, hm.1.2⟩, hm.2⟩

theorem Memory.wfFrom_cons {lo a : Nat} {b : Byte} {m : Memory} (h : lo ≤ a)
    (hm : Memory.wfFrom (a + 1) m = true) : Memory.wfFrom lo (Memory.cons a b m) = true := by
  unfold Memory.cons
  split
  · exact Memory.wfFrom_mono (by omega) hm
  · rename_i hb
    simp [Memory.wfFrom, h, hm, hb]

theorem Memory.wfFrom_write {m : Memory} {lo a : Nat} (b : Byte) (h : lo ≤ a) (hm : Memory.wfFrom lo m = true) :
    Memory.wfFrom lo (Memory.write m a b) = true := by
  induction m generalizing lo with
  | nil => exact Memory.wfFrom_cons h rfl
  | cons p m ih =>
    obtain ⟨k, v⟩ := p
    have hm' := hm
    simp only [Memory.wfFrom, Bool.and_eq_true, decide_eq_true_eq] at hm'
    unfold Memory.write
    split
    · apply Memory.wfFrom_cons h
      simp only [Memory.wfFrom, Bool.and_eq_true, decide_eq_true_eq]
      exact ⟨⟨by omega, hm'.1.2⟩, hm'.2⟩
    · split
      · subst a
        exact Memory.wfFrom_cons h hm'.2
      · simp only [Memory.wfFrom, Bool.and_eq_true, decide_eq_true_eq]
        exact ⟨hm'.1, ih (by omega) hm'.2⟩

/-- A store keeps the canonical form. -/
theorem Memory.wf_write {m : Memory} (a : Nat) (b : Byte) (hm : Memory.wf m = true) :
    Memory.wf (Memory.write m a b) = true :=
  Memory.wfFrom_write b (Nat.zero_le a) hm

theorem Memory.wf_writeBytes {m : Memory} (a : Nat) (bs : List Byte) (hm : Memory.wf m = true) :
    Memory.wf (Memory.writeBytes m a bs) = true := by
  induction bs generalizing m a with
  | nil => exact hm
  | cons b bs ih => exact ih _ (Memory.wf_write a b hm)

/-- A block store keeps the canonical form. -/
theorem Memory.wf_writeBlock {m : Memory} (a : Nat) (v : Block) (hm : Memory.wf m = true) :
    Memory.wf (Memory.writeBlock m a v) = true := by
  unfold Memory.writeBlock
  exact Memory.wf_writeBytes a _ hm

/-! ### Where the listed bytes are -/

theorem Memory.mem_cons {a : Nat} {b : Byte} {m : Memory} {p : Host.Cell} (h : p ∈ Memory.cons a b m) :
    p = (a, b) ∨ p ∈ m := by
  unfold Memory.cons at h
  split at h
  · exact .inr h
  · simpa using h

/-- A store lists no other new address. -/
theorem Memory.mem_write {m : Memory} {a : Nat} {b : Byte} {p : Host.Cell} (h : p ∈ Memory.write m a b) :
    p = (a, b) ∨ p ∈ m := by
  induction m with
  | nil => exact Memory.mem_cons h
  | cons q m ih =>
    obtain ⟨k, v⟩ := q
    unfold Memory.write at h
    split at h
    · exact Memory.mem_cons h
    · split at h
      · exact (Memory.mem_cons h).imp_right fun h => List.mem_cons_of_mem _ h
      · rcases List.mem_cons.1 h with h | h
        · exact .inr (h ▸ List.mem_cons_self)
        · exact (ih h).imp_right fun h => List.mem_cons_of_mem _ h

/-- Every listed byte has an address below `top`. -/
def Memory.below (top : Nat) (m : Memory) : Prop := ∀ p ∈ m, p.1 < top

theorem Memory.below_write {top : Nat} {m : Memory} {a : Nat} (b : Byte) (ha : a < top) (hm : Memory.below top m) :
    Memory.below top (Memory.write m a b) := by
  intro p hp
  rcases Memory.mem_write hp with rfl | h
  · exact ha
  · exact hm p h

theorem Memory.below_writeBytes {top : Nat} {m : Memory} {a : Nat} {bs : List Byte} (ha : a + bs.length ≤ top)
    (hm : Memory.below top m) : Memory.below top (Memory.writeBytes m a bs) := by
  induction bs generalizing m a with
  | nil => exact hm
  | cons b bs ih =>
    simp only [List.length_cons] at ha
    exact ih (by omega) (Memory.below_write b (by omega) hm)

theorem Memory.below_writeBlock {top : Nat} {m : Memory} {a : Nat} (v : Block) (ha : a + 64 ≤ top)
    (hm : Memory.below top m) : Memory.below top (Memory.writeBlock m a v) := by
  unfold Memory.writeBlock
  exact Memory.below_writeBytes (by simpa using ha) hm

/-! ### Reads -/

theorem Memory.read_below {m : Memory} {lo a : Nat} (h : a < lo) (hm : Memory.wfFrom lo m = true) :
    Memory.read m a = Memory.unlisted := by
  induction m generalizing lo with
  | nil => rfl
  | cons p m ih =>
    obtain ⟨k, v⟩ := p
    simp only [Memory.wfFrom, Bool.and_eq_true, decide_eq_true_eq] at hm
    unfold Memory.read
    rw [if_neg (by omega)]
    exact ih (by omega) hm.2

theorem Memory.read_cons_ne {a x : Nat} {b : Byte} {m : Memory} (h : x ≠ a) :
    Memory.read (Memory.cons a b m) x = Memory.read m x := by
  unfold Memory.cons
  split
  · rfl
  · simp [Memory.read, Ne.symm h]

theorem Memory.read_cons_self {a : Nat} {b : Byte} {m : Memory} (hm : Memory.wfFrom (a + 1) m = true) :
    Memory.read (Memory.cons a b m) a = b := by
  unfold Memory.cons
  split
  · rename_i h
    rw [h]
    exact Memory.read_below (by omega) hm
  · simp [Memory.read]

/-- A store leaves every other byte alone. -/
theorem Memory.read_write_ne {m : Memory} {a x : Nat} {b : Byte} (h : x ≠ a) :
    Memory.read (Memory.write m a b) x = Memory.read m x := by
  induction m with
  | nil => exact Memory.read_cons_ne h
  | cons p m ih =>
    obtain ⟨k, v⟩ := p
    unfold Memory.write
    split
    · exact Memory.read_cons_ne h
    · split
      · subst a
        rw [Memory.read_cons_ne h]
        simp [Memory.read, Ne.symm h]
      · simp only [Memory.read, ih]

theorem Memory.read_writeFrom_self {m : Memory} {lo a : Nat} {b : Byte} (hlo : lo ≤ a)
    (hm : Memory.wfFrom lo m = true) : Memory.read (Memory.write m a b) a = b := by
  induction m generalizing lo with
  | nil => exact Memory.read_cons_self rfl
  | cons p m ih =>
    obtain ⟨k, v⟩ := p
    simp only [Memory.wfFrom, Bool.and_eq_true, decide_eq_true_eq] at hm
    unfold Memory.write
    split
    · apply Memory.read_cons_self
      simp only [Memory.wfFrom, Bool.and_eq_true, decide_eq_true_eq]
      exact ⟨⟨by omega, hm.1.2⟩, hm.2⟩
    · split
      · subst a
        exact Memory.read_cons_self hm.2
      · simp only [Memory.read]
        rw [if_neg (by omega)]
        exact ih (lo := k + 1) (by omega) hm.2

/-- A read after a store to the same address gives the byte stored. -/
theorem Memory.read_write_self {m : Memory} {a : Nat} {b : Byte} (hm : Memory.wf m = true) :
    Memory.read (Memory.write m a b) a = b :=
  Memory.read_writeFrom_self (Nat.zero_le a) hm

theorem Memory.read_writeBytes_outside {m : Memory} {a x : Nat} {bs : List Byte}
    (h : x < a ∨ a + bs.length ≤ x) : Memory.read (Memory.writeBytes m a bs) x = Memory.read m x := by
  induction bs generalizing m a with
  | nil => rfl
  | cons b bs ih =>
    simp only [List.length_cons] at h
    unfold Memory.writeBytes
    rw [ih (by omega), Memory.read_write_ne (by omega)]

theorem Memory.read_writeBytes_inside {m : Memory} {a i : Nat} {bs : List Byte} (hm : Memory.wf m = true)
    (h : i < bs.length) : Memory.read (Memory.writeBytes m a bs) (a + i) = bs[i] := by
  induction bs generalizing m a i with
  | nil => simp at h
  | cons b bs ih =>
    unfold Memory.writeBytes
    cases i with
    | zero =>
      rw [Memory.read_writeBytes_outside (by omega)]
      exact Memory.read_write_self hm
    | succ i =>
      rw [show a + (i + 1) = a + 1 + i by omega, ih (Memory.wf_write a b hm) (by simpa using h)]
      rfl

/-- A block store leaves every byte outside its 64 bytes alone. -/
theorem Memory.read_writeBlock_outside {m : Memory} {a x : Nat} {v : Block} (h : x < a ∨ a + 64 ≤ x) :
    Memory.read (Memory.writeBlock m a v) x = Memory.read m x := by
  unfold Memory.writeBlock
  exact Memory.read_writeBytes_outside (by simpa using h)

/-- A read inside a stored block gives that byte of the block. -/
theorem Memory.read_writeBlock_inside {m : Memory} {a : Nat} {v : Block} (hm : Memory.wf m = true) (i : Fin 64) :
    Memory.read (Memory.writeBlock m a v) (a + i.val) = v[i.val] := by
  have h : i.val < v.toList.length := by rw [Vector.length_toList]; exact i.isLt
  have e := Memory.read_writeBytes_inside (m := m) (a := a) (bs := v.toList) (i := i.val) hm h
  rw [Vector.getElem_toList] at e
  unfold Memory.writeBlock
  exact e

@[simp] theorem Memory.readBlock_get (m : Memory) (a i : Nat) (h : i < 64) :
    (Memory.readBlock m a)[i] = Memory.read m (a + i) := by
  simp [Memory.readBlock]

/-- A block read depends only on its 64 bytes. -/
theorem Memory.readBlock_congr {m n : Memory} {a b : Nat}
    (h : ∀ i, i < 64 → Memory.read m (a + i) = Memory.read n (b + i)) :
    Memory.readBlock m a = Memory.readBlock n b := by
  ext i hi
  simp [h i hi]

/-- A block read after a block store elsewhere. -/
theorem Memory.readBlock_writeBlock_apart {m : Memory} {a b : Nat} {v : Block} (h : b + 64 ≤ a ∨ a + 64 ≤ b) :
    Memory.readBlock (Memory.writeBlock m a v) b = Memory.readBlock m b :=
  Memory.readBlock_congr fun i hi => Memory.read_writeBlock_outside (by omega)

/-- The blocks of a range depend only on its bytes. -/
theorem Memory.blocks_congr {m n : Memory} {a b k : Nat}
    (h : ∀ i, i < 64 * k → Memory.read m (a + i) = Memory.read n (b + i)) :
    Memory.blocks m a k = Memory.blocks n b k := by
  unfold Memory.blocks
  apply List.map_congr_left
  intro j hj
  have hj := List.mem_range.1 hj
  apply Memory.readBlock_congr
  intro i hi
  simpa [Nat.add_assoc] using h (64 * j + i) (by omega)

theorem Memory.blocks_zero (m : Memory) (a : Nat) : Memory.blocks m a 0 = [] := rfl

theorem Memory.blocks_succ (m : Memory) (a k : Nat) :
    Memory.blocks m a (k + 1) = Memory.readBlock m a :: Memory.blocks m (a + 64) k := by
  unfold Memory.blocks
  rw [List.range_succ_eq_map, List.map_cons, List.map_map, Nat.mul_zero, Nat.add_zero]
  refine congrArg (List.cons _) (List.map_congr_left fun j _ => ?_)
  rw [Function.comp_apply, show a + 64 * j.succ = a + 64 + 64 * j by omega]

end Sys2Proof.Machine
end

