-- ==== Sys2Proof/Laws/Engines.lean ====
section
/-! SUPPORT. What the loops of the four buffer commands do, said once: the registers they leave, the accesses they make and the
memory they leave. -/

namespace Sys2Proof.Machine

/-! ### HASH -/

/-- The registers after absorbing `n` chunks. -/
theorem hashLoop_ctx (cfg : Config) (n : Nat) (e : Engine) :
    (hashLoop cfg n e).ctx =
      { e.ctx.setHash ((Memory.blocks e.mem e.chunkAddr n).foldl (hashAbsorb cfg) e.ctx.hashLanes) with
        off := e.ctx.off + 64 * n } := by
  induction n generalizing e with
  | zero => rfl
  | succ n ih =>
    rw [hashLoop, ih, Memory.blocks_succ, List.foldl_cons]
    simp only [absorbChunk, Engine.chunkAddr, Context.hashLanes, Engine.advance_ctx, Engine.advance_mem,
      Engine.withCtx_ctx, Engine.withCtx_mem, Engine.read64_block, Engine.read64_mem, Context.setHash,
      Nat.add_assoc, Nat.mul_add, Nat.mul_one, Nat.add_comm 64]

/-- Absorbing writes nothing. -/
theorem hashLoop_mem (cfg : Config) (n : Nat) (e : Engine) : (hashLoop cfg n e).mem = e.mem := by
  induction n generalizing e with
  | zero => rfl
  | succ n ih => rw [hashLoop, ih]; rfl

/-- Absorbing reads each chunk once, in ascending order (20_memory R61, R62). -/
theorem hashLoop_trace (cfg : Config) (n : Nat) (e : Engine) :
    (hashLoop cfg n e).trace = e.trace ++ (List.range n).map fun k => .read (e.chunkAddr + 64 * k) := by
  induction n generalizing e with
  | zero => simp [hashLoop]
  | succ n ih =>
    rw [hashLoop, ih, List.range_succ_eq_map, List.map_cons, List.map_map]
    simp only [absorbChunk, Engine.chunkAddr, Engine.advance_ctx, Engine.advance_trace, Engine.withCtx_ctx,
      Engine.withCtx_trace, Engine.read64_trace, Context.setHash_argBuf, Context.setHash_off, Nat.mul_zero,
      Nat.add_zero, List.append_assoc, List.singleton_append]
    congr 2
    apply List.map_congr_left
    intro k _
    simp only [Function.comp_apply]
    congr 1
    omega

/-! ### FILL1 and FILL4 -/

/-- `S_k` is `k` steps from the loaded state (42_generator R147, R152). -/
theorem genState_eq (next : LaneState → LaneState) (t : Perm64) (st : Block) (k : Nat) :
    genState next t st k = next^[k] (gather t st) := by
  induction k with
  | zero => rfl
  | succ k ih => rw [genState, ih, Function.iterate_succ_apply']

/-- The registers after `n` generated chunks. -/
theorem fillLoop_ctx (next : LaneState → LaneState) (t : Perm64) (n : Nat) (e : Engine) :
    (fillLoop next t n e).ctx =
      { e.ctx.setGen (next^[n] e.ctx.genLanes) with off := e.ctx.off + 64 * n } := by
  induction n generalizing e with
  | zero => rfl
  | succ n ih =>
    rw [fillLoop, ih, Function.iterate_succ_apply]
    simp only [fillChunk, Context.genLanes, Engine.advance_ctx, Engine.withCtx_ctx, Context.setGen,
      Nat.add_assoc, Nat.mul_add, Nat.mul_one, Nat.add_comm 64]

/-- Filling writes each chunk once, in ascending order (20_memory R61, R62). -/
theorem fillLoop_trace (next : LaneState → LaneState) (t : Perm64) (n : Nat) (e : Engine) :
    (fillLoop next t n e).trace = e.trace ++ (List.range n).map fun k => .write (e.chunkAddr + 64 * k) := by
  induction n generalizing e with
  | zero => simp [fillLoop]
  | succ n ih =>
    rw [fillLoop, ih, List.range_succ_eq_map, List.map_cons, List.map_map]
    simp only [fillChunk, Engine.chunkAddr, Engine.advance_ctx, Engine.advance_trace, Engine.withCtx_ctx,
      Engine.withCtx_trace, Engine.write64_trace, Context.setGen_argBuf, Context.setGen_off, Nat.mul_zero,
      Nat.add_zero, List.append_assoc, List.singleton_append]
    congr 2
    apply List.map_congr_left
    intro k _
    simp only [Function.comp_apply]
    congr 1
    omega

theorem fillLoop_mem_succ (next : LaneState → LaneState) (t : Perm64) (n : Nat) (e : Engine) :
    (fillLoop next t (n + 1) e).mem = (fillLoop next t n (fillChunk next t e).advance).mem := rfl

/-- Filling keeps the canonical form of memory. -/
theorem fillLoop_wf (next : LaneState → LaneState) (t : Perm64) (n : Nat) (e : Engine)
    (h : Memory.wf e.mem = true) : Memory.wf (fillLoop next t n e).mem = true := by
  induction n generalizing e with
  | zero => exact h
  | succ n ih => exact ih _ (Memory.wf_writeBlock _ _ h)

/-- Filling stays below `top` when its buffer does. -/
theorem fillLoop_below (next : LaneState → LaneState) (t : Perm64) {top : Nat} (n : Nat) (e : Engine)
    (h : Memory.below top e.mem) (ht : e.chunkAddr + 64 * n ≤ top) :
    Memory.below top (fillLoop next t n e).mem := by
  induction n generalizing e with
  | zero => exact h
  | succ n ih =>
    refine ih _ (Memory.below_writeBlock _ (by omega) h) ?_
    simp only [fillChunk, Engine.chunkAddr, Engine.advance_ctx, Engine.withCtx_ctx, Context.setGen_argBuf,
      Context.setGen_off] at ht ⊢
    omega

/-- Filling leaves every byte outside its buffer alone. -/
theorem fillLoop_read_outside (next : LaneState → LaneState) (t : Perm64) {x : Nat} (n : Nat) (e : Engine)
    (h : x < e.chunkAddr ∨ e.chunkAddr + 64 * n ≤ x) :
    Memory.read (fillLoop next t n e).mem x = Memory.read e.mem x := by
  induction n generalizing e with
  | zero => rfl
  | succ n ih =>
    rw [fillLoop_mem_succ, ih]
    · exact Memory.read_writeBlock_outside (by omega)
    · simp only [fillChunk, Engine.chunkAddr, Engine.advance_ctx, Engine.withCtx_ctx, Context.setGen_argBuf,
        Context.setGen_off] at h ⊢
      omega

/-- Chunk `k` of the buffer is the image of the lane state after `k + 1` steps (42_generator R147, R148, R152). -/
theorem fillLoop_chunk (next : LaneState → LaneState) (t : Perm64) (n : Nat) (e : Engine)
    (hm : Memory.wf e.mem = true) {k : Nat} (hk : k < n) :
    Memory.readBlock (fillLoop next t n e).mem (e.chunkAddr + 64 * k) =
      scatter t (next^[k + 1] e.ctx.genLanes) := by
  induction n generalizing e k with
  | zero => omega
  | succ n ih =>
    have hc : (fillChunk next t e).advance.chunkAddr = e.chunkAddr + 64 := by
      simp only [fillChunk, Engine.chunkAddr, Engine.advance_ctx, Engine.withCtx_ctx, Context.setGen_argBuf,
        Context.setGen_off, Nat.add_assoc]
    rw [fillLoop_mem_succ]
    cases k with
    | zero =>
      apply Vector.ext
      intro i hi
      rw [Memory.readBlock_get, fillLoop_read_outside _ _ _ _ (by rw [hc]; omega)]
      exact Memory.read_writeBlock_inside hm ⟨i, hi⟩
    | succ k =>
      have := ih (fillChunk next t e).advance (Memory.wf_writeBlock _ _ hm) (k := k) (by omega)
      rw [hc] at this
      rw [show e.chunkAddr + 64 * (k + 1) = e.chunkAddr + 64 + 64 * k by omega, this,
        Function.iterate_succ_apply (n := k + 1)]
      rfl

/-! ### HASHFILL -/

/-- The fused loop leaves the memory and the generator registers that the unfused fill leaves (43_fused R167). -/
theorem fusedLoop_fill (cfg : Config) (n : Nat) (e f : Engine) (hm : e.mem = f.mem)
    (ha : e.ctx.argBuf = f.ctx.argBuf) (ho : e.ctx.off = f.ctx.off) (hg : e.ctx.genLanes = f.ctx.genLanes) :
    (fusedLoop cfg n e).mem = (fillLoop (gen1Step cfg) cfg.tbl1 n f).mem ∧
      (fusedLoop cfg n e).ctx.genLanes = (fillLoop (gen1Step cfg) cfg.tbl1 n f).ctx.genLanes := by
  induction n generalizing e f with
  | zero => exact ⟨hm, hg⟩
  | succ n ih =>
    apply ih
    · simp only [fillChunk, absorbChunk, Engine.chunkAddr, Engine.advance_mem, Engine.withCtx_mem,
        Engine.withCtx_ctx, Engine.write64_mem, Engine.read64_mem, Context.setHash_argBuf, Context.setHash_off,
        hm, ha, ho]
      exact congrArg (fun g => Memory.writeBlock f.mem _ (scatter cfg.tbl1 (gen1Step cfg g))) hg
    · simpa [fillChunk, absorbChunk] using ha
    · simpa [fillChunk, absorbChunk] using ho
    · exact congrArg (fun g => gen1Step cfg g) hg

/-- The fused loop absorbs the contents its buffer had before it (43_fused R167). -/
theorem fusedLoop_hash (cfg : Config) (n : Nat) (e : Engine) :
    (fusedLoop cfg n e).ctx.hashLanes =
      (Memory.blocks e.mem e.chunkAddr n).foldl (hashAbsorb cfg) e.ctx.hashLanes := by
  induction n generalizing e with
  | zero => rfl
  | succ n ih =>
    rw [fusedLoop, ih, Memory.blocks_succ, List.foldl_cons]
    have hc : (fillChunk (gen1Step cfg) cfg.tbl1 (absorbChunk cfg e)).advance.chunkAddr = e.chunkAddr + 64 := by
      simp [fillChunk, absorbChunk, Engine.chunkAddr, Nat.add_assoc]
    rw [hc]
    refine congrArg₂ (List.foldl (hashAbsorb cfg)) ?_ ?_
    · rfl
    · apply Memory.blocks_congr
      intro i _
      exact Memory.read_writeBlock_outside (v := scatter cfg.tbl1 _) (.inr (by
        simp only [absorbChunk, Engine.chunkAddr, Engine.withCtx_ctx, Context.setHash_argBuf, Context.setHash_off]
        omega))

/-- The fused loop changes no register but the lane-pairs and `OFF`. -/
theorem fusedLoop_ctx (cfg : Config) (n : Nat) (e : Engine) :
    (fusedLoop cfg n e).ctx =
      { (e.ctx.setHash (fusedLoop cfg n e).ctx.hashLanes).setGen (fusedLoop cfg n e).ctx.genLanes with
        off := e.ctx.off + 64 * n } := by
  induction n generalizing e with
  | zero => rfl
  | succ n ih =>
    rw [fusedLoop, ih]
    simp only [fillChunk, absorbChunk, Engine.advance_ctx, Engine.withCtx_ctx, Context.setHash, Context.setGen,
      Context.hashLanes, Context.genLanes, Nat.add_assoc, Nat.mul_add, Nat.mul_one, Nat.add_comm 64]

/-- The fused loop reads each chunk before it writes it, in ascending order (20_memory R62, 43_fused R167). -/
theorem fusedLoop_trace (cfg : Config) (n : Nat) (e : Engine) :
    (fusedLoop cfg n e).trace =
      e.trace ++ (List.range n).flatMap fun k => [.read (e.chunkAddr + 64 * k), .write (e.chunkAddr + 64 * k)] := by
  induction n generalizing e with
  | zero => simp [fusedLoop]
  | succ n ih =>
    rw [fusedLoop, ih, List.range_succ_eq_map, List.flatMap_cons, List.flatMap_map]
    simp only [fillChunk, absorbChunk, Engine.chunkAddr, Engine.advance_ctx, Engine.advance_trace,
      Engine.withCtx_ctx, Engine.withCtx_trace, Engine.write64_trace, Engine.read64_trace, Context.setGen_argBuf,
      Context.setGen_off, Context.setHash_argBuf, Context.setHash_off, Nat.mul_zero, Nat.add_zero,
      List.append_assoc, List.cons_append, List.nil_append]
    congr 4
    funext k
    have : e.ctx.argBuf + (e.ctx.off + 64) + 64 * k = e.ctx.argBuf + e.ctx.off + 64 * k.succ := by omega
    simp only [this]

end Sys2Proof.Machine
end

