-- ==== Sys2Proof/Laws/Commands.lean ====
section
/-! SUPPORT. What each buffer command leaves: its registers, its memory and its accesses, in closed form. -/

namespace Sys2Proof.Machine

open Sys2Proof.Safety

/-! ### HASH -/

/-- HASH writes the digest of the old buffer contents and nothing else (41_hash R133). -/
theorem hashCommand_mem (cfg : Config) (e : Engine) :
    (hashCommand cfg e).mem =
      Memory.writeBlock e.mem e.ctx.argDigest (hashOf cfg (Memory.blocks e.mem e.ctx.argBuf e.ctx.chunks)) := by
  simp only [hashCommand, hashEmit, hashFinish, Engine.withCtx_mem, Engine.write64_mem, Engine.withCtx_ctx,
    hashLoop_mem, hashLoop_ctx, hashBegin, Engine.start_mem, Engine.start_ctx]
  rfl

/-- The registers HASH leaves before they are forgotten. -/
theorem hashCommand_ctx (cfg : Config) (e : Engine) :
    ∃ l, (hashCommand cfg e).ctx = { e.ctx.setHash l with phase := .idle, off := 64 * e.ctx.chunks } := by
  simp only [hashCommand, hashEmit, hashFinish, Engine.withCtx_ctx, hashLoop_ctx, hashBegin, Engine.start_ctx,
    Context.setHash, Context.setPhase, Nat.zero_add]
  exact ⟨_, rfl⟩

/-- The accesses of HASH in order: the chunks, then the digest (20_memory R62). -/
theorem hashCommand_trace (cfg : Config) (e : Engine) :
    (hashCommand cfg e).trace =
      e.trace ++ (List.range e.ctx.chunks).map (fun k => .read (e.ctx.argBuf + 64 * k)) ++
        [.write e.ctx.argDigest] := by
  simp only [hashCommand, hashEmit, hashFinish, Engine.withCtx_trace, Engine.write64_trace, Engine.withCtx_ctx,
    hashLoop_trace, hashLoop_ctx, hashBegin, Engine.start_trace, Engine.start_ctx, Engine.chunkAddr,
    Context.setHash_argBuf, Context.setPhase_argBuf, Context.setHash_off, Context.setPhase_off,
    Context.setHash_argDigest, Context.setPhase_argDigest, Nat.add_zero]

/-! ### FILL1 and FILL4 -/

/-- The engine after `GenLoad`, with `OFF` at 0. -/
def loaded (t : Perm64) (e : Engine) : Engine := genLoad t e.start

@[simp] theorem loaded_mem (t : Perm64) (e : Engine) : (loaded t e).mem = e.mem := rfl

@[simp] theorem loaded_chunkAddr (t : Perm64) (e : Engine) : (loaded t e).chunkAddr = e.ctx.argBuf := rfl

@[simp] theorem loaded_gen (t : Perm64) (e : Engine) :
    (loaded t e).ctx.genLanes = gather t (Memory.readBlock e.mem e.ctx.argState) := rfl

theorem loaded_ctx (t : Perm64) (e : Engine) :
    (loaded t e).ctx = { e.ctx.setGen (gather t (Memory.readBlock e.mem e.ctx.argState)) with off := 0 } := rfl

@[simp] theorem loaded_trace (t : Perm64) (e : Engine) :
    (loaded t e).trace = e.trace ++ [.read e.ctx.argState] := rfl

/-- FILL4 leaves the filled buffer and nothing else (42_generator R152, R154). -/
theorem fill4Command_eq (cfg : Config) (e : Engine) :
    fill4Command cfg e = fillLoop (gen4Step cfg) cfg.tbl4 e.ctx.chunks (loaded cfg.tbl4 e) := rfl

/-- FILL1 leaves the filled buffer and the persisted state (42_generator R147, R149). -/
theorem fill1Command_mem (cfg : Config) (e : Engine) :
    (fill1Command cfg e).mem =
      Memory.writeBlock (fillLoop (gen1Step cfg) cfg.tbl1 e.ctx.chunks (loaded cfg.tbl1 e)).mem e.ctx.argState
        (fill1State cfg (Memory.readBlock e.mem e.ctx.argState) e.ctx.chunks) := by
  simp only [fill1Command, genStore, Engine.write64_mem, fillLoop_ctx, fill1State, genState_eq]
  rfl

/-- The registers FILL1 leaves before they are forgotten. -/
theorem fill1Command_ctx (cfg : Config) (e : Engine) :
    ∃ l, (fill1Command cfg e).ctx = { e.ctx.setGen l with off := 64 * e.ctx.chunks } := by
  have h : (fill1Command cfg e).ctx = (fillLoop (gen1Step cfg) cfg.tbl1 e.ctx.chunks (loaded cfg.tbl1 e)).ctx := rfl
  rw [h, fillLoop_ctx, loaded_ctx]
  exact ⟨_, by simp only [Context.setGen, Nat.zero_add]; rfl⟩

/-- The registers FILL4 leaves before they are forgotten. -/
theorem fill4Command_ctx (cfg : Config) (e : Engine) :
    ∃ l, (fill4Command cfg e).ctx = { e.ctx.setGen l with off := 64 * e.ctx.chunks } := by
  rw [fill4Command_eq, fillLoop_ctx, loaded_ctx]
  exact ⟨_, by simp only [Context.setGen, Nat.zero_add]; rfl⟩

/-- The accesses of FILL1 in order: the state buffer, the chunks, the state buffer (20_memory R62). -/
theorem fill1Command_trace (cfg : Config) (e : Engine) :
    (fill1Command cfg e).trace =
      e.trace ++ [.read e.ctx.argState] ++ (List.range e.ctx.chunks).map (fun k => .write (e.ctx.argBuf + 64 * k)) ++
        [.write e.ctx.argState] := by
  have h : (fill1Command cfg e).trace =
      (fillLoop (gen1Step cfg) cfg.tbl1 e.ctx.chunks (loaded cfg.tbl1 e)).trace ++
        [.write (fillLoop (gen1Step cfg) cfg.tbl1 e.ctx.chunks (loaded cfg.tbl1 e)).ctx.argState] := rfl
  rw [h, fillLoop_trace, fillLoop_ctx, loaded_ctx, loaded_trace, loaded_chunkAddr]
  rfl

/-- The accesses of FILL4 in order: the state buffer, the chunks (20_memory R62). -/
theorem fill4Command_trace (cfg : Config) (e : Engine) :
    (fill4Command cfg e).trace =
      e.trace ++ [.read e.ctx.argState] ++
        (List.range e.ctx.chunks).map (fun k => .write (e.ctx.argBuf + 64 * k)) := by
  rw [fill4Command_eq, fillLoop_trace, loaded_trace, loaded_chunkAddr]

/-! ### HASHFILL -/

/-- The engine HASHFILL loops from. -/
def begun (cfg : Config) (e : Engine) : Engine := genLoad cfg.tbl1 (hashBegin cfg e.start)

@[simp] theorem begun_trace (cfg : Config) (e : Engine) :
    (begun cfg e).trace = e.trace ++ [.read e.ctx.argState] := rfl

@[simp] theorem begun_chunkAddr (cfg : Config) (e : Engine) : (begun cfg e).chunkAddr = e.ctx.argBuf := rfl

/-- HASHFILL leaves what FILL1 leaves, and the digest of the old scratchpad (43_fused R166, R167). -/
theorem hashFillCommand_mem (cfg : Config) (e : Engine) :
    (hashFillCommand cfg e).mem =
      Memory.writeBlock (fill1Command cfg e).mem e.ctx.argDigest
        (hashOf cfg (Memory.blocks e.mem e.ctx.argBuf e.ctx.chunks)) := by
  have hf := fusedLoop_fill cfg e.ctx.chunks (begun cfg e) (loaded cfg.tbl1 e) rfl rfl rfl rfl
  have hh := fusedLoop_hash cfg e.ctx.chunks (begun cfg e)
  have hc := fusedLoop_ctx cfg e.ctx.chunks (begun cfg e)
  have h : (hashFillCommand cfg e).mem =
      Memory.writeBlock
        (Memory.writeBlock (fusedLoop cfg e.ctx.chunks (begun cfg e)).mem
          (fusedLoop cfg e.ctx.chunks (begun cfg e)).ctx.argState
          (scatter cfg.tbl1 (fusedLoop cfg e.ctx.chunks (begun cfg e)).ctx.genLanes))
        (fusedLoop cfg e.ctx.chunks (begun cfg e)).ctx.argDigest
        (hashFinal cfg (fusedLoop cfg e.ctx.chunks (begun cfg e)).ctx.hashLanes) := rfl
  have hs : (fusedLoop cfg e.ctx.chunks (begun cfg e)).ctx.argState = e.ctx.argState := by rw [hc]; rfl
  have hd : (fusedLoop cfg e.ctx.chunks (begun cfg e)).ctx.argDigest = e.ctx.argDigest := by rw [hc]; rfl
  have hg : (fillLoop (gen1Step cfg) cfg.tbl1 e.ctx.chunks (loaded cfg.tbl1 e)).ctx.genLanes =
      (gen1Step cfg)^[e.ctx.chunks] (gather cfg.tbl1 (Memory.readBlock e.mem e.ctx.argState)) := by
    rw [fillLoop_ctx]; rfl
  rw [h, hs, hd, hf.1, hf.2, hg, hh, fill1Command_mem, fill1State, genState_eq]
  rfl

/-- The registers HASHFILL leaves before they are forgotten. -/
theorem hashFillCommand_ctx (cfg : Config) (e : Engine) :
    ∃ l g, (hashFillCommand cfg e).ctx =
      { (e.ctx.setHash l).setGen g with phase := .idle, off := 64 * e.ctx.chunks } := by
  have hc := fusedLoop_ctx cfg e.ctx.chunks (begun cfg e)
  have h : (hashFillCommand cfg e).ctx =
      ((((fusedLoop cfg e.ctx.chunks (begun cfg e)).ctx.setPhase .finalizing).setHash
        (hashFinalRounds cfg (fusedLoop cfg e.ctx.chunks (begun cfg e)).ctx.hashLanes)).setPhase .idle) := rfl
  rw [h, hc]
  exact ⟨_, _, by simp only [Context.setHash, Context.setGen, Context.setPhase, begun, genLoad, hashBegin,
    Engine.withCtx_ctx, Engine.start_ctx, Nat.zero_add]; rfl⟩

/-- The accesses of HASHFILL in order: the state buffer; per chunk a read, then a write; the state buffer; the digest
(20_memory R62). -/
theorem hashFillCommand_trace (cfg : Config) (e : Engine) :
    (hashFillCommand cfg e).trace =
      e.trace ++ [.read e.ctx.argState] ++
        (List.range e.ctx.chunks).flatMap
          (fun k => [.read (e.ctx.argBuf + 64 * k), .write (e.ctx.argBuf + 64 * k)]) ++
        [.write e.ctx.argState, .write e.ctx.argDigest] := by
  have hc := fusedLoop_ctx cfg e.ctx.chunks (begun cfg e)
  have h : (hashFillCommand cfg e).trace =
      (fusedLoop cfg e.ctx.chunks (begun cfg e)).trace ++
        [.write (fusedLoop cfg e.ctx.chunks (begun cfg e)).ctx.argState] ++
        [.write (fusedLoop cfg e.ctx.chunks (begun cfg e)).ctx.argDigest] := rfl
  rw [h, fusedLoop_trace, hc, begun_trace, begun_chunkAddr, List.append_assoc _ [_] [_]]
  rfl

end Sys2Proof.Machine
end

