-- ==== Sys2Proof/Laws/Buffer.lean ====
section
/-! SUPPORT. The four buffer commands at once: when one runs, what it leaves, and which bytes it may change. -/

namespace Sys2Proof.Machine

open Sys2Proof.Safety

/-- The engine a command on context `c` starts from. -/
abbrev State.engine (s : State) (c : Context) : Engine := { ctx := c, mem := s.mem, trace := [] }

/-- A buffer command is admission, then its body. -/
theorem exec_buffer {i : Instr} (hb : IsBuffer i) (s : State) : exec i s = runBuffer i (commandBody i) s := by
  cases i <;> first | rfl | exact absurd rfl hb

/-- An admissible buffer command completes (30_encoding R85, R86). -/
theorem exec_admissible {i : Instr} (hb : IsBuffer i) {s : State} {c : Context} (h : Admissible i s c) :
    exec i s = .next (s.retire (commandBody i s.cfg (s.engine c))) := by
  rw [exec_buffer hb, runBuffer_admissible h]

/-- What a buffer command that completes has done. -/
theorem exec_buffer_next {i : Instr} (hb : IsBuffer i) {s t : State} (h : exec i s = .next t) :
    ∃ c, Admissible i s c ∧ t = s.retire (commandBody i s.cfg (s.engine c)) := by
  rw [exec_buffer hb] at h
  exact runBuffer_next h

/-- A block read back after its store (20_memory R54, R55). -/
theorem Memory.readBlock_writeBlock {m : Memory} {a : Nat} {v : Block} (hm : Memory.wf m = true) :
    Memory.readBlock (Memory.writeBlock m a v) a = v := by
  apply Vector.ext
  intro i hi
  rw [Memory.readBlock_get]
  exact Memory.read_writeBlock_inside hm ⟨i, hi⟩

/-- The blocks of a range, block by block. -/
theorem Memory.blocks_eq_map {m : Memory} {b n : Nat} {f : Nat → Block}
    (h : ∀ k < n, Memory.readBlock m (b + 64 * k) = f k) : Memory.blocks m b n = (List.range n).map f :=
  List.map_congr_left fun k hk => h k (List.mem_range.1 hk)

/-- Disjoint spans, as arithmetic. -/
theorem span_apart {x y : Span} (h : ∀ a, ¬ (InSpan a x ∧ InSpan a y)) :
    x.size = 0 ∨ y.size = 0 ∨ x.base + x.size ≤ y.base ∨ y.base + y.size ≤ x.base := by
  by_contra hc
  push Not at hc
  exact h (max x.base y.base) ⟨⟨by omega, by omega⟩, ⟨by omega, by omega⟩⟩

/-- A length that is a multiple of 64 is its chunks. -/
theorem Context.chunks_size {c : Context} (h : c.argLen % 64 = 0) : 64 * c.chunks = c.argLen := by
  unfold Context.chunks
  omega

/-- No command changes the registers the host sees (10_state R26, R27). -/
theorem commandBody_hostRegs (i : Instr) (cfg : Config) (e : Engine) :
    ∃ d, (commandBody i cfg e).ctx = d ∧ SameHostRegs e.ctx d := by
  refine ⟨_, rfl, ?_⟩
  cases i
  · obtain ⟨l, hl⟩ := hashCommand_ctx cfg e
    rw [commandBody, hl]
    constructor <;> rfl
  · obtain ⟨l, hl⟩ := fill1Command_ctx cfg e
    rw [commandBody, hl]
    constructor <;> rfl
  · obtain ⟨l, hl⟩ := fill4Command_ctx cfg e
    rw [commandBody, hl]
    constructor <;> rfl
  · obtain ⟨l, g, hl⟩ := hashFillCommand_ctx cfg e
    rw [commandBody, hl]
    constructor <;> rfl
  · constructor <;> rfl

/-- No command changes a byte outside the regions it writes (20_memory R61). -/
theorem commandBody_outside (i : Instr) (cfg : Config) (e : Engine) (hs : e.ctx.argLen % 64 = 0) (a : Nat)
    (h : ∀ x ∈ writeSpans i e.ctx, ¬ InSpan a x) :
    Memory.read (commandBody i cfg e).mem a = Memory.read e.mem a := by
  have hl := Context.chunks_size hs
  cases i <;>
    simp only [writeSpans, List.mem_cons, List.not_mem_nil, or_false, forall_eq_or_imp, forall_eq, InSpan,
      Context.bufSpan, Context.stateSpan, Context.digestSpan, commandBody] at h ⊢
  · rw [hashCommand_mem, Memory.read_writeBlock_outside (by omega)]
  · rw [fill1Command_mem, Memory.read_writeBlock_outside (by omega),
      fillLoop_read_outside _ _ _ _ (by rw [loaded_chunkAddr]; omega), loaded_mem]
  · rw [fill4Command_eq, fillLoop_read_outside _ _ _ _ (by rw [loaded_chunkAddr]; omega), loaded_mem]
  · rw [hashFillCommand_mem, Memory.read_writeBlock_outside (by omega), fill1Command_mem,
      Memory.read_writeBlock_outside (by omega), fillLoop_read_outside _ _ _ _ (by rw [loaded_chunkAddr]; omega),
      loaded_mem]

/-- Every command keeps the canonical form of memory. -/
theorem commandBody_wf (i : Instr) (cfg : Config) (e : Engine) (hm : Memory.wf e.mem = true) :
    Memory.wf (commandBody i cfg e).mem = true := by
  have h1 : Memory.wf (fill1Command cfg e).mem = true := by
    rw [fill1Command_mem]
    exact Memory.wf_writeBlock _ _ (fillLoop_wf _ _ _ _ hm)
  cases i <;> simp only [commandBody]
  · rw [hashCommand_mem]
    exact Memory.wf_writeBlock _ _ hm
  · exact h1
  · rw [fill4Command_eq]
    exact fillLoop_wf _ _ _ _ hm
  · rw [hashFillCommand_mem]
    exact Memory.wf_writeBlock _ _ h1
  · exact hm

/-- A command whose regions end below `top` lists no byte at or above it. -/
theorem commandBody_below (i : Instr) (cfg : Config) (e : Engine) {top : Nat} (hs : e.ctx.argLen % 64 = 0)
    (hr : ∀ x ∈ regions i e.ctx, x.base + x.size ≤ top) (hm : Memory.below top e.mem) :
    Memory.below top (commandBody i cfg e).mem := by
  have hl := Context.chunks_size hs
  cases i <;>
    simp only [regions, List.mem_cons, List.not_mem_nil, or_false, forall_eq_or_imp, forall_eq, Context.bufSpan,
      Context.stateSpan, Context.digestSpan, commandBody] at hr ⊢
  · rw [hashCommand_mem]
    exact Memory.below_writeBlock _ (by omega) hm
  · rw [fill1Command_mem]
    exact Memory.below_writeBlock _ (by omega)
      (fillLoop_below _ _ _ _ hm (by rw [loaded_chunkAddr]; omega))
  · rw [fill4Command_eq]
    exact fillLoop_below _ _ _ _ hm (by rw [loaded_chunkAddr]; omega)
  · rw [hashFillCommand_mem, fill1Command_mem]
    exact Memory.below_writeBlock _ (by omega) (Memory.below_writeBlock _ (by omega)
      (fillLoop_below _ _ _ _ hm (by rw [loaded_chunkAddr]; omega)))
  · exact hm

end Sys2Proof.Machine
end

