-- ==== Sys2Proof/Laws/Detector.lean ====
section
/-! SUPPORT. What the detector does, said once: a probe body touches `HA` and `HB` of the issuing context only, `Guarded`
restores the handler, `Detect` gives the record of the outcomes. -/

namespace Sys2Proof.Machine

/-- `t` differs from `s` at most in `HA`, `HB` of the current context, and in the count of free values. -/
structure HashOnly (s t : State) : Prop where
  cap : t.cap = s.cap
  det : t.det = s.det
  handler : t.handler = s.handler
  savedHandler : t.savedHandler = s.savedHandler
  checkpoint : t.checkpoint = s.checkpoint
  cfg : t.cfg = s.cfg
  mem : t.mem = s.mem
  cur : t.cur = s.cur
  pending : t.pending = s.pending
  nctx : t.contexts.length = s.contexts.length
  others : ∀ k, k ≠ s.cur → t.contexts[k]? = s.contexts[k]?
  current : ∀ c, s.contexts[s.cur]? = some c → ∃ l, t.contexts[s.cur]? = some (c.setHash l)

theorem HashOnly.refl (s : State) : HashOnly s s :=
  ⟨rfl, rfl, rfl, rfl, rfl, rfl, rfl, rfl, rfl, rfl, fun _ _ => rfl, fun c h => ⟨c.hashLanes, h⟩⟩

theorem HashOnly.trans {s t u : State} (h : HashOnly s t) (k : HashOnly t u) : HashOnly s u where
  cap := k.cap.trans h.cap
  det := k.det.trans h.det
  handler := k.handler.trans h.handler
  savedHandler := k.savedHandler.trans h.savedHandler
  checkpoint := k.checkpoint.trans h.checkpoint
  cfg := k.cfg.trans h.cfg
  mem := k.mem.trans h.mem
  cur := k.cur.trans h.cur
  pending := k.pending.trans h.pending
  nctx := k.nctx.trans h.nctx
  others j hj := (k.others j (h.cur ▸ hj)).trans (h.others j hj)
  current c hc := by
    obtain ⟨l, hl⟩ := h.current c hc
    obtain ⟨l', hl'⟩ := k.current _ (h.cur.symm ▸ hl)
    exact ⟨l', by rw [← h.cur, hl']; rfl⟩

theorem forgetHash_hashOnly (s : State) : HashOnly s s.forgetHash := by
  refine ⟨by simp, by simp, by simp, by simp, by simp, by simp, by simp, by simp, by simp, by simp, ?_, ?_⟩
  · intro k hk
    unfold State.forgetHash
    split
    · rfl
    · exact List.getElem?_set_ne (Ne.symm hk)
  · intro c hc
    obtain ⟨hlt, -⟩ := List.getElem?_eq_some_iff.1 hc
    rw [State.forgetHash_eq hc]
    exact ⟨⟨_, _⟩, List.getElem?_set_self hlt⟩

theorem raiseProbeTrap_hashOnly (s : State) : HashOnly s (raiseProbeTrap s).2 := forgetHash_hashOnly s

theorem vecProbeBody_hashOnly (s : State) : HashOnly s (vecProbeBody s).2 := by
  unfold vecProbeBody
  split
  · exact raiseProbeTrap_hashOnly s
  · exact HashOnly.refl s

theorem selfTest_hashOnly (s : State) : HashOnly s (selfTest s).2 := by
  unfold selfTest
  split
  · exact raiseProbeTrap_hashOnly s
  · exact forgetHash_hashOnly s

theorem aesProbeBody_hashOnly (s : State) : HashOnly s (aesProbeBody s).2 := by
  unfold aesProbeBody
  split
  · exact raiseProbeTrap_hashOnly s
  · exact selfTest_hashOnly s

/-- `t` differs from `s` at most as `HashOnly` says, and in `SAVED_HANDLER` and `CHECKPOINT`. -/
def Probed (s t : State) : Prop :=
  HashOnly s { t with savedHandler := s.savedHandler, checkpoint := s.checkpoint }

theorem Probed.refl (s : State) : Probed s s := HashOnly.refl s

theorem Probed.trans {s t u : State} (h : Probed s t) (k : Probed t u) : Probed s u where
  cap := k.cap.trans h.cap
  det := k.det.trans h.det
  handler := k.handler.trans h.handler
  savedHandler := rfl
  checkpoint := rfl
  cfg := k.cfg.trans h.cfg
  mem := k.mem.trans h.mem
  cur := k.cur.trans h.cur
  pending := k.pending.trans h.pending
  nctx := k.nctx.trans h.nctx
  others j hj := (k.others j (show j ≠ t.cur from h.cur ▸ hj)).trans (h.others j hj)
  current c hc := by
    obtain ⟨l, hl⟩ := h.current c hc
    have e : t.cur = s.cur := h.cur
    obtain ⟨l', hl'⟩ := k.current (c.setHash l) (show t.contexts[t.cur]? = _ by rw [e]; exact hl)
    exact ⟨l', by rw [← e]; exact hl'⟩

/-- `Guarded` restores the handler, leaves no checkpoint, and otherwise does what its body does (44_capability R180). -/
theorem guarded_probed {w : Checkpoint} {body : State → ProbeOutcome × State} (hb : ∀ s, HashOnly s (body s).2)
    (s : State) : Probed s (guarded w body s).2 ∧ (guarded w body s).2.checkpoint = .none := by
  have h := hb (enterProbe w s)
  exact ⟨⟨h.cap, h.det, h.savedHandler, rfl, rfl, h.cfg, h.mem, h.cur, h.pending, h.nctx, h.others, h.current⟩, rfl⟩

/-- The outcome of `Guarded` is its body's (44_capability R180). -/
theorem guarded_outcome (w : Checkpoint) (body : State → ProbeOutcome × State) (s : State) :
    (guarded w body s).1 = (body (enterProbe w s)).1 := rfl

/-- The outcome of the vector probe (44_capability R183). -/
def vecOutcome (p : Plat) : ProbeOutcome :=
  match p.vecProbe with
  | .trap => .trapped .illegalInstruction
  | .ok w => .ok w

/-- The outcome of the crypto probe with its self-test (44_capability R182, R184). -/
def aesOutcome (cfg : Config) : ProbeOutcome :=
  match cfg.plat.aesProbe, backendAnswer cfg cfg.katInput with
  | .trap, _ => .trapped .illegalInstruction
  | .ok, .trap => .trapped .illegalInstruction
  | .ok, .digest d => if d = cfg.refDigest then .pass else .mismatch

theorem vecProbeBody_outcome (s : State) : (vecProbeBody s).1 = vecOutcome s.cfg.plat := by
  unfold vecProbeBody vecOutcome
  cases h : s.cfg.plat.vecProbe <;> rfl

theorem aesProbeBody_outcome (s : State) : (aesProbeBody s).1 = aesOutcome s.cfg := by
  unfold aesProbeBody aesOutcome
  cases h : s.cfg.plat.aesProbe with
  | trap => rfl
  | ok =>
    simp only [selfTest]
    cases hb : backendAnswer s.cfg s.cfg.katInput <;> rfl

/-- The record the detector computes (44_capability R178, R186). -/
def capOf (cfg : Config) : BitVec 32 :=
  match cfg.plat.static with
  | some q => capOfStatic q
  | none => capOfProbes (vecOutcome cfg.plat) (aesOutcome cfg)

/-- On a platform with a static query the detector writes `CAP` and `DET_STATE` and nothing else (44_capability R179). -/
theorem detect_static {s : State} {q : StaticQuery} (h : s.cfg.plat.static = some q) :
    detect s = { s with cap := capOfStatic q, det := .ready } := by
  unfold detect
  simp only [h]
  rfl

/-- What `Detect` leaves (44_capability R178, R180, R185). -/
theorem detect_spec (s : State) :
    (detect s).cap = capOf s.cfg ∧ (detect s).det = .ready ∧
      Probed s { detect s with cap := s.cap, det := s.det } ∧
      (s.cfg.plat.static = none → (detect s).checkpoint = .none) ∧
      (s.cfg.plat.static ≠ none → (detect s).checkpoint = s.checkpoint) := by
  cases hq : s.cfg.plat.static with
  | some q =>
    rw [detect_static hq]
    exact ⟨by simp [capOf, hq], rfl, Probed.refl s, by simp, by simp⟩
  | none =>
    let s' : State := { s with det := .probing }
    have hv := guarded_probed (w := .vecProbe) vecProbeBody_hashOnly s'
    let v := (guarded .vecProbe vecProbeBody s').2
    have ha := guarded_probed (w := .aesProbe) aesProbeBody_hashOnly v
    have hd : detect s = publishCap (capOfProbes (guarded .vecProbe vecProbeBody s').1
        (guarded .aesProbe aesProbeBody v).1) (guarded .aesProbe aesProbeBody v).2 := by
      unfold detect
      simp only [hq]
      rfl
    have hp := hv.1.trans ha.1
    have hcfg : (enterProbe .aesProbe v).cfg = s.cfg := hv.1.cfg
    rw [hd]
    refine ⟨?_, rfl, ⟨rfl, rfl, hp.handler, rfl, rfl, hp.cfg, hp.mem, hp.cur, hp.pending, hp.nctx, hp.others,
      hp.current⟩, fun _ => ha.2, fun h => absurd rfl h⟩
    rw [publishCap_cap, guarded_outcome, guarded_outcome, vecProbeBody_outcome, aesProbeBody_outcome, hcfg]
    simp only [capOf, hq]
    rfl

/-- The first CAPQ: it completes, whatever the platform (44_capability R177, R185). -/
theorem execCapq_uninit {s : State} {c : Context} (hc : s.contexts[s.cur]? = some c) (hd : s.det = .uninit) :
    execCapq s = .next (publishRes (detect s)) := by
  simp only [execCapq, hc, hd]

/-- A later CAPQ is a pure read (44_capability R177, R190). -/
theorem execCapq_ready {s : State} {c : Context} (hc : s.contexts[s.cur]? = some c) (hd : s.det = .ready) :
    execCapq s = .next (s.setCtx { c with res := s.cap }) := by
  simp only [execCapq, hc, hd, publishRes]

/-- What a CAPQ that runs has done. -/
theorem execCapq_next {s t : State} (h : execCapq s = .next t) :
    ∃ c, s.contexts[s.cur]? = some c ∧
      ((s.det = .uninit ∧ t = publishRes (detect s)) ∨ (s.det = .ready ∧ t = s.setCtx { c with res := s.cap })) := by
  unfold execCapq at h
  split at h
  · cases h
  · rename_i c hc
    refine ⟨c, hc, ?_⟩
    split at h <;> rename_i hd
    · cases h
      exact .inl ⟨hd, rfl⟩
    · cases h
    · cases h
      exact .inr ⟨hd, publishRes_eq hc⟩

/-- The registers of the issuing context after the first CAPQ: `HA`, `HB` may have changed, `RES` is the record. -/
theorem publishRes_detect_current {s : State} {c : Context} (hc : s.contexts[s.cur]? = some c) :
    ∃ l, publishRes (detect s) = (detect s).setCtx { c.setHash l with res := capOf s.cfg } ∧
      (detect s).contexts[s.cur]? = some (c.setHash l) := by
  obtain ⟨h1, -, h3, -⟩ := detect_spec s
  obtain ⟨l, hl⟩ := h3.current c hc
  have hcur : (detect s).cur = s.cur := h3.cur
  refine ⟨l, ?_, hl⟩
  have := publishRes_eq (s := detect s) (c := c.setHash l) (by rw [hcur]; exact hl)
  rw [this, h1]

end Sys2Proof.Machine
end

