-- ==== Sys2Proof/Laws/Flags.lean ====
section
/-! SUPPORT. The fields of a capability record read back (10_state R29 to R33). -/

namespace Sys2Proof.Machine

/-- Bit `i` of a capability record. -/
theorem capRecord_bit (a w : Bool) (v : BitVec 16) (i : Nat) :
    (capRecord a w v).getLsbD i =
      if i = 0 then a else if i = 1 then w else if i < 16 then false else v.getLsbD (i - 16) := by
  simp only [capRecord, BitVec.getLsbD_append, BitVec.getLsbD_ofBool, BitVec.getLsbD_zero]
  by_cases h0 : i = 0
  · simp [h0]
  · by_cases h1 : i = 1
    · simp [h1]
    · by_cases h2 : i < 16
      · simp [h0, h1, h2, show ¬ i < 1 by omega, show ¬ i - 1 < 1 by omega, show i - 1 - 1 < 14 by omega]
      · simp [h0, h1, h2, show ¬ i < 1 by omega, show ¬ i - 1 < 1 by omega, show ¬ i - 1 - 1 < 14 by omega,
          show i - 1 - 1 - 14 = i - 16 by omega]

@[simp] theorem capAes_capRecord (a w : Bool) (v : BitVec 16) : capAes (capRecord a w v) = a :=
  capRecord_bit a w v 0

@[simp] theorem capWide_capRecord (a w : Bool) (v : BitVec 16) : capWide (capRecord a w v) = w :=
  capRecord_bit a w v 1

@[simp] theorem capReserved_capRecord (a w : Bool) (v : BitVec 16) : capReserved (capRecord a w v) = 0#14 := by
  apply BitVec.eq_of_getLsbD_eq
  intro i hi
  simp [capReserved, capRecord_bit, show ¬ 2 + i = 1 by omega, show 2 + i < 16 by omega]

@[simp] theorem capWidth_capRecord (a w : Bool) (v : BitVec 16) : capWidth (capRecord a w v) = v := by
  apply BitVec.eq_of_getLsbD_eq
  intro i hi
  simp [capWidth, capRecord_bit, show ¬ 16 + i = 1 by omega,
    show ¬ 16 + i < 16 by omega, hi]

end Sys2Proof.Machine
end

