-- ==== Sys2Proof/Laws/HostPort.lean ====
section
/-! SUPPORT. What a step can do, by the host action it performs. -/

namespace Sys2Proof.Machine

/-- A step performs the next host action. -/
theorem step_cons {s : State} {a : HostAction} {rest : List HostAction} (h : s.pending = a :: rest) :
    step s = perform { s with pending := rest } rest a := by
  rw [step, stepPending, h]

/-- With no action pending a step changes nothing (70_reset R231). -/
theorem step_nil {s : State} (h : s.pending = []) : step s = .next s := by
  rw [step, stepPending, h]

/-- A command word that nothing conflicts with is the command's meaning (30_encoding R85). -/
theorem issue_alone {s : State} {k : Nat} {c : Context} {w : BitVec 32} {i : Instr} {overlap : List HostAction}
    (hc : s.contexts[k]? = some c) (hd : decode w = .ok i)
    (ho : overlapRefusal k (runsDetector s i) (readSpans i c) (writeSpans i c) s overlap = none) :
    issue s k w overlap = exec i (s.select k w) := by
  simp only [issue, hc, hd, ho]
  split
  · rename_i h
    cases h
  · rfl

/-- A command that could run but for what overlaps it is refused. -/
theorem issue_overlapped {s t : State} {k : Nat} {c : Context} {w : BitVec 32} {i : Instr}
    {overlap : List HostAction} {r : Refusal} (hc : s.contexts[k]? = some c) (hd : decode w = .ok i)
    (ht : exec i (s.select k w) = .next t)
    (ho : overlapRefusal k (runsDetector s i) (readSpans i c) (writeSpans i c) s overlap = some r) :
    issue s k w overlap = .refused r := by
  simp only [issue, hc, hd, ho, ht]

/-- What a command word that runs has done. -/
theorem issue_next {s t : State} {k : Nat} {w : BitVec 32} {overlap : List HostAction}
    (h : issue s k w overlap = .next t) :
    ∃ c i, s.contexts[k]? = some c ∧ decode w = .ok i ∧ exec i (s.select k w) = .next t := by
  unfold issue at h
  split at h
  · cases h
  · rename_i c hc
    split at h
    · cases h
    · rename_i i hd
      refine ⟨c, i, hc, hd, ?_⟩
      split at h
      · cases h
      · exact h

/-- What a register write that happens has done. -/
theorem hostWriteArg_next {s t : State} {k v : Nat} {r : ArgReg} (h : hostWriteArg s k r v = .next t) :
    ∃ c, s.contexts[k]? = some c ∧ v < 2 ^ s.cfg.addrBits ∧
      t = { s with contexts := s.contexts.set k (c.setArg v r) } := by
  unfold hostWriteArg at h
  split at h
  · cases h
  · rename_i c hc
    split at h
    · rename_i hv
      cases h
      exact ⟨c, hc, hv, State.setArgOf_eq hc r v⟩
    · cases h

/-- What a step can do: nothing, or one host action. -/
theorem step_next {s t : State} (h : step s = .next t) :
    (s.pending = [] ∧ t = s) ∨ ∃ a rest, s.pending = a :: rest ∧ perform { s with pending := rest } rest a = .next t := by
  cases hp : s.pending with
  | nil =>
    rw [step_nil hp] at h
    cases h
    exact .inl ⟨rfl, rfl⟩
  | cons a rest => exact .inr ⟨a, rest, rfl, step_cons hp ▸ h⟩

/-- What an action that happens has done (00_scope R6, R15). -/
theorem perform_next {s t : State} {rest : List HostAction} {a : HostAction} (h : perform s rest a = .next t) :
    (∃ k c r v, a = .arg k r v ∧ s.contexts[k]? = some c ∧ v < 2 ^ s.cfg.addrBits ∧
        t = { s with contexts := s.contexts.set k (c.setArg v r) }) ∨
      (∃ k c w n i, a = .cmd k w n ∧ s.contexts[k]? = some c ∧ decode w = .ok i ∧
        exec i { s with cur := k, contexts := s.contexts.set k { c with cmd := w } } = .next t) ∨
      (∃ x, a = .load x ∧ backsRead s.cfg x = true ∧ t = s) ∨
      (∃ x b, a = .store x b ∧ backsWrite s.cfg x = true ∧ t = { s with mem := Memory.write s.mem x b }) ∨
      (∃ id, a = .handler id ∧ t = { s with handler := .platform id }) ∨
      (a = .reset ∧ t = hostReset s) := by
  cases a with
  | arg k r v =>
    obtain ⟨c, h1, h2, h3⟩ := hostWriteArg_next h
    exact .inl ⟨k, c, r, v, rfl, h1, h2, h3⟩
  | cmd k w n =>
    obtain ⟨c, i, h1, h2, h3⟩ := issue_next h
    rw [State.select_eq h1] at h3
    exact .inr (.inl ⟨k, c, w, n, i, rfl, h1, h2, h3⟩)
  | load x =>
    change hostLoad s x = _ at h
    unfold hostLoad at h
    split at h
    · rename_i hb
      cases h
      exact .inr (.inr (.inl ⟨x, rfl, hb, rfl⟩))
    · cases h
  | store x b =>
    change hostStore s x b = _ at h
    unfold hostStore at h
    split at h
    · rename_i hb
      cases h
      exact .inr (.inr (.inr (.inl ⟨x, b, rfl, hb, rfl⟩)))
    · cases h
  | handler id =>
    cases h
    exact .inr (.inr (.inr (.inr (.inl ⟨id, rfl, rfl⟩))))
  | reset =>
    cases h
    exact .inr (.inr (.inr (.inr (.inr ⟨rfl, rfl⟩))))

end Sys2Proof.Machine
end

