-- ==== Sys2Proof/Laws/PerInstr.lean ====
section
/-! SUPPORT. Per instruction, about the instruction as syntax: it is well-formed, and its word of 30_encoding R82 decodes to it,
as a command word and as the opcode table numbers it. -/

namespace Sys2Proof.Laws.Encoding

/-- A well-formed command's word has no reserved bit set and decodes to the command, from `CMD` and from the opcode table's
numbering. -/
def Statement (i : Instr) : Prop :=
  i.wf = true ∧ rsvField (encode i) = 0 ∧ decode (encode i) = .ok i ∧
    decodeTableWord 32 (encode i).toNat = some i

theorem hash : Statement .hash := ⟨rfl, rfl, rfl, rfl⟩

theorem fill1 : Statement .fill1 := ⟨rfl, rfl, rfl, rfl⟩

theorem fill4 : Statement .fill4 := ⟨rfl, rfl, rfl, rfl⟩

theorem hashFill : Statement .hashFill := ⟨rfl, rfl, rfl, rfl⟩

theorem capq : Statement .capq := ⟨rfl, rfl, rfl, rfl⟩

end Sys2Proof.Laws.Encoding
end

