-- ==== Sys2Proof/Laws/Tables.lean ====
section
/-! SUPPORT. Where the tables put each byte, with numbers as indices. -/

namespace Sys2Proof.Machine

/-- A table after its inverse. -/
theorem fwd_inv_val (t : Perm64) {i : Nat} (h : i < 64) : (t.fwd[(t.inv[i]).val]).val = i :=
  congrArg Fin.val (t.fwd_inv ⟨i, h⟩)

/-- The inverse after a table. -/
theorem inv_fwd_val (t : Perm64) {p : Nat} (h : p < 64) : (t.inv[(t.fwd[p]).val]).val = p :=
  congrArg Fin.val (t.inv_fwd ⟨p, h⟩)

/-- The bytes of pair A after `GATHER` (40_tables R102). -/
theorem gather_a_get (t : Perm64) (b : Block) {p : Nat} (h : p < 32) : (gather t b).a[p] = b[t.fwd[p]] := by
  simp [gather, ofPhysical]

/-- The bytes of pair B after `GATHER` (40_tables R102). -/
theorem gather_b_get (t : Perm64) (b : Block) {p : Nat} (h : p < 32) : (gather t b).b[p] = b[t.fwd[32 + p]] := by
  simp [gather, ofPhysical]

/-- The bytes of the block after `SCATTER` (40_tables R103). -/
theorem scatter_get (t : Perm64) (l : LaneState) {i : Nat} (h : i < 64) :
    (scatter t l)[i] = (physical l)[t.inv[i]] := by
  simp [scatter]

/-- The bytes of the physical string: pair A, then pair B (00_scope R14). -/
theorem physical_get (l : LaneState) {p : Nat} (h : p < 64) :
    (physical l)[p] = if h : p < 32 then l.a[p] else l.b[p - 32] := by
  simp [physical]

end Sys2Proof.Machine
end

