-- ==== Sys2Proof/Tests/Slice0.lean ====
section
/-! SUPPORT. Tests. Expected values come from 95_test_vectors (instantiation T0 of its section 2), from the encoding
table of 30_encoding R82, from the worked example of R90 and from 20_memory R62. Then, for every obligation with hypotheses, a state and operands
that meet them all (`witness_...`), one for each clause. -/

namespace Sys2Proof.Tests

open Sys2Proof.Machine Sys2Proof.Safety

/-! ### The instantiation T0 (95_test_vectors section 2) -/

/-- Constant number `t` of T0. -/
def t0Constant (t : Nat) : Pair := Vector.ofFn fun i : Fin 32 => BitVec.ofNat 8 (17 * t + 3 * i.val)

def t0Constants : Constants where
  hInitA := t0Constant 0
  hInitB := t0Constant 1
  xk := #v[t0Constant 2, t0Constant 3]
  g1kA := t0Constant 4
  g1kB := t0Constant 5
  g4kA := #v[t0Constant 6, t0Constant 7, t0Constant 8, t0Constant 9]
  g4kB := #v[t0Constant 10, t0Constant 11, t0Constant 12, t0Constant 13]

/-- `TBL4[p] = (p + 32) mod 64`. -/
def t0Tbl4 : Perm64 where
  fwd := Vector.ofFn fun p : Fin 64 => p + 32
  inv := Vector.ofFn fun p : Fin 64 => p + 32
  inv_fwd := by decide +kernel
  fwd_inv := by decide +kernel

/-- A byte string written as bytes. -/
def block (l : List Byte) : Block := Vector.ofFn fun i : Fin 64 => l.getD i.val 0#8

/-- The digest of `KAT_INPUT`, V9. -/
def v9 : Block := block [
  0xe0, 0x3d, 0x2b, 0x6a, 0xae, 0x7c, 0x7b, 0x28, 0xe3, 0x71, 0x09, 0x73, 0xd8, 0x83, 0x4e, 0xbd,
  0x43, 0x12, 0xc6, 0x90, 0x1a, 0x67, 0x7b, 0xe8, 0xe9, 0xaa, 0x29, 0xc3, 0x8e, 0x33, 0x75, 0x80,
  0xa1, 0x51, 0x00, 0x95, 0xc6, 0x85, 0x7a, 0x56, 0x74, 0x0d, 0x1b, 0x25, 0xf4, 0x37, 0xaf, 0x9a,
  0x2a, 0x74, 0xa7, 0x13, 0x10, 0x8e, 0x6e, 0x84, 0x76, 0x2c, 0x47, 0x2b, 0xf4, 0x3f, 0xcd, 0x6d]

/-- T0 on a platform without a static query, both probes executing, launch memory at 0 to 0xFFFF. The self-test's answer is
listed, so that it need not be computed. -/
def t0 : Config where
  constants := t0Constants
  tbl1 := tbl1Default
  tbl4 := t0Tbl4
  katInput := katInputDefault
  refDigest := v9
  addrBits := 64
  bufAlign := 64
  plat := { static := none, vecProbe := .ok 256#16, aesProbe := .ok }
  backend := [(katInputDefault, .digest v9)]
  launch := [{ base := 0, size := 0x10000, readable := true, writable := true }]

/-- A context whose operand registers the host has written. -/
def ctxOf (buf len st dig : Nat) : Context :=
  { Context.reset with
    argBuf := buf, argLen := len, argState := st, argDigest := dig
    bufWritten := true, lenWritten := true, stateWritten := true, digestWritten := true }

/-- `st0 = a0 a1 .. df` (95_test_vectors section 3.4). -/
def st0 : Block := Vector.ofFn fun i : Fin 64 => BitVec.ofNat 8 (0xa0 + i.val)

/-- The bytes of `KAT_INPUT` from address `a` up, the zeros unlisted (44_capability R181). -/
def katAt (a : Nat) : Memory := (List.range 8).map fun k => (a + 8 * k, BitVec.ofNat 8 (k + 1))

/-- `st0` from address `a` up. -/
def st0At (a : Nat) : Memory := (List.range 64).map fun i => (a + i, BitVec.ofNat 8 (0xa0 + i))

/-- A ready core with two contexts, the first on `len` bytes at 0x1000, the second on buffers of its own. -/
def ready (mem : Memory) (len : Nat) : State where
  contexts := [ctxOf 0x1000 len 0x3000 0x2000, ctxOf 0x5000 64 0x6000 0x7000]
  cap := 0x01000003#32
  det := .ready
  handler := .platform 7
  savedHandler := .platform 0
  checkpoint := .none
  cfg := t0
  mem := mem
  cur := 0
  pending := []
  freeCount := 0

/-- The core before the detector has run, on a platform. -/
def fresh (plat : Plat) : State :=
  { ready [] 64 with cap := 0#32, det := .uninit, cfg := { t0 with plat := plat } }

/-- The outcome is a next state that passes the check. -/
def after (o : Host.Outcome State Fault Refusal) (check : State → Bool) : Bool :=
  match o with
  | .next t => check t
  | _ => false

/-- The outcome is this refusal. -/
def refusedWith (o : Host.Outcome State Fault Refusal) (r : Refusal) : Bool :=
  match o with
  | .refused q => q == r
  | _ => false

/-! ### Well-formedness (00_scope R8) -/

/-- T0 is well-formed. -/
theorem test_wf_t0 : t0.wf = true := by decide +kernel

/-- A configuration whose two seeds are equal is not one of this core (41_hash R132). -/
theorem test_wf_seeds : ({ t0 with constants := { t0Constants with hInitB := t0Constants.hInitA } } : Config).wf = false := by
  decide +kernel

/-- The seeds the core holds after reset differ, whatever they are (41_hash R132). -/
theorem test_reset_seeds : State.reset.cfg.distinctSeeds = true := by
  simp only [Config.distinctSeeds, bne_iff_ne]
  exact fun h => absurd (congrArg (fun p : Pair => p[0]) (Config.openSeeds.injective h)) (by decide)

/-- `ADDR_BITS >= 7`. -/
theorem test_wf_addrBits : ({ t0 with addrBits := 6, launch := [] } : Config).wf = false ∧
    ({ t0 with addrBits := 7, launch := [] } : Config).wf = true := by decide +kernel

/-- `BUF_ALIGN` is a power of two in 1..64. -/
theorem test_wf_bufAlign : ∀ b : Fin 130, ({ t0 with bufAlign := b.val } : Config).wf =
    [1, 2, 4, 8, 16, 32, 64].contains b.val := by decide +kernel

/-- The launch memory lies inside the address space. -/
theorem test_wf_launch :
    ({ t0 with addrBits := 16 } : Config).wf = true ∧ ({ t0 with addrBits := 15 } : Config).wf = false := by
  decide +kernel

/-- Every command is well-formed: there is no ill-formed one (30_encoding R81, R88). -/
theorem test_wf_instr : [Instr.hash, .fill1, .fill4, .hashFill, .capq].all Instr.wf = true := by decide

/-! ### Encoding (30_encoding R81, R82, R87; the words bit by bit from the table: bits 31:4 zero, then `OP`) -/

theorem test_decode_hash : decode 0b00000000000000000000000000000001#32 = .ok .hash := by decide

theorem test_decode_fill1 : decode 0b00000000000000000000000000000010#32 = .ok .fill1 := by decide

theorem test_decode_fill4 : decode 0b00000000000000000000000000000011#32 = .ok .fill4 := by decide

theorem test_decode_hashfill : decode 0b00000000000000000000000000000100#32 = .ok .hashFill := by decide

theorem test_decode_capq : decode 0b00000000000000000000000000000101#32 = .ok .capq := by decide

/-- V29, V38: `0x11` and `0x15` have a reserved bit; so has every word with bit 31 only. -/
theorem test_reserved_bits : [0x00000011#32, 0x00000015#32, 0x80000001#32].all
    (fun w => decide (decode w = .error .reservedBits)) = true := by decide

/-- V30: `0`, `6`, `0xF` are reserved operation codes. -/
theorem test_reserved_op : [0x00000000#32, 0x00000006#32, 0x0000000F#32].all
    (fun w => decide (decode w = .error .reservedOp)) = true := by decide

/-- The example of 30_encoding R90: `fill1 st=0x2000, buf=0x1000, len=128`. -/
theorem test_assemble : assemble 0 (.fill1 0x2000 0x1000 128) =
    [.arg 0 .buf 0x1000, .arg 0 .len 0x80, .arg 0 .state 0x2000, .cmd 0 0x00000002#32 0] := by decide

/-! ### Primitives (95_test_vectors 3.1, 3.2) -/

/-- A lane written as bytes. -/
def lane (l : List Byte) : Lane := Vector.ofFn fun i : Fin 16 => l.getD i.val 0#8

def laneS : Lane := Vector.ofFn fun i : Fin 16 => BitVec.ofNat 8 i.val

def laneK : Lane := Vector.ofFn fun i : Fin 16 => BitVec.ofNat 8 (0x10 + i.val)

/-- V1. -/
theorem test_fwd128 : fwd128 laneS laneK = lane [
    0x7a, 0x7b, 0x4e, 0x56, 0x38, 0x78, 0x25, 0x46, 0xa8, 0xc0, 0x47, 0x7a, 0x3b, 0x81, 0x3f, 0x43] := by
  decide +kernel

/-- V2. -/
theorem test_inv128 : inv128 laneS laneK = lane [
    0x03, 0xb2, 0x84, 0x0f, 0x3a, 0x0c, 0x3f, 0x79, 0x0f, 0x56, 0xe8, 0xa9, 0xda, 0xa0, 0x85, 0x4e] := by
  decide +kernel

/-- V4: values with no byte in order. -/
theorem test_fwd128_unordered :
    fwd128 (lane [0x5d, 0x47, 0x53, 0x5d, 0x72, 0x6f, 0x74, 0x63, 0x65, 0x56, 0x74, 0x73, 0x65, 0x54, 0x5b, 0x7b])
      (lane [0x5d, 0x6e, 0x6f, 0x72, 0x65, 0x75, 0x47, 0x5b, 0x29, 0x79, 0x61, 0x68, 0x53, 0x28, 0x69, 0x48]) =
    lane [0x95, 0xe5, 0xd7, 0xde, 0x58, 0x4b, 0x10, 0x8b, 0xc5, 0xa3, 0xdb, 0x9f, 0x2f, 0x1c, 0x31, 0xa8] := by
  decide +kernel

/-- V5: the last byte of each sub-lane of `FWDROUND` and `INVROUNDXOR`; sub-lane 1 is not sub-lane 0's. -/
theorem test_rounds_lanewise :
    let p : Pair := Vector.ofFn fun i : Fin 32 => BitVec.ofNat 8 i.val
    let k : Pair := Vector.ofFn fun i : Fin 32 => BitVec.ofNat 8 (if i.val < 16 then 0x10 + i.val else 0x100 - i.val)
    ((fwdRound p k)[15], (fwdRound p k)[31], (invRoundXor p k)[15], (invRoundXor p k)[31]) =
      (0x43#8, 0xde#8, 0x4e#8, 0x4b#8) := by decide +kernel

/-- V7 and V8: pair A is lanes 0 and 2 under the default table, the upper half of the block under T0's `TBL4`. -/
theorem test_gather :
    let blk : Block := Vector.ofFn fun i : Fin 64 => BitVec.ofNat 8 i.val
    ((gather tbl1Default blk).a[16], (gather tbl1Default blk).b[0], (gather t0Tbl4 blk).a[0], (gather t0Tbl4 blk).b[31]) =
      (0x20#8, 0x10#8, 0x20#8, 0x1f#8) := by decide +kernel

/-- V14: tables that differ do not undo each other: byte 0 of the result is `10`, byte 32 is `00`. -/
theorem test_table_mixing :
    let blk : Block := Vector.ofFn fun i : Fin 64 => BitVec.ofNat 8 i.val
    ((scatter t0Tbl4 (gather tbl1Default blk))[0], (scatter t0Tbl4 (gather tbl1Default blk))[32]) = (0x10#8, 0x00#8) := by
  decide +kernel

/-! ### Commands (95_test_vectors 3.3 to 3.6), one step each -/

/-- V9, P1: HASH of `KAT_INPUT`: the first and the last byte of the digest in memory. -/
theorem test_hash_kat : after (exec .hash (ready (katAt 0x1000) 64))
    (fun t => Memory.read t.mem 0x2000 == 0xe0 && Memory.read t.mem 0x203f == 0x6d &&
      Memory.read t.mem 0x1038 == 0x08) = true := by decide +kernel

/-- V33, V34, V36, V37 on HASH and HASHFILL: the refusals that depend on the operands. -/
theorem test_hash_refusals :
    refusedWith (exec .hash (ready [] 100)) .sizeNotMultipleOf64 = true ∧
    refusedWith (exec .hash { ready [] 128 with contexts := [ctxOf 0xFFFFFFFFFFFFFFC0 128 0x3000 0x2000] })
      .addressRange = true ∧
    refusedWith (exec .hashFill { ready [] 128 with contexts := [ctxOf 0x1000 128 0x1040 0x2000] }) .overlap = true ∧
    refusedWith (exec .hash { ready [] 64 with contexts := [ctxOf 0x1000 64 0x3000 0x20000] }) .notBacked = true := by
  decide +kernel

/-- V16: bytes 0 and 63 of chunk 0, byte 0 of chunk 1. -/
theorem test_fill1_chunks :
    ((fill1Out t0 st0 2).map fun b => b[0]) = [0x4a#8, 0xb6#8] ∧ (fill1State t0 st0 1)[63] = 0x82#8 := by
  decide +kernel

/-- V19: FILL1 of nothing rewrites the state buffer with what it held. -/
theorem test_fill1_nothing :
    after (exec .fill1 (ready (st0At 0x3000) 0)) (fun t => t.mem == st0At 0x3000) = true := by decide +kernel

/-- V20: byte 0 of chunk 0. -/
theorem test_fill4_chunk : ((fill4Out t0 st0 1).map fun b => b[0]) = [0x8e#8] := by decide +kernel

/-- V32: FILL4 with `CAP.AES = 0` is refused. -/
theorem test_fill4_notCapable :
    refusedWith (exec .fill4 { ready [] 64 with cap := 0x01000002#32 }) .notCapable = true := by decide +kernel

/-- 20_memory R62: the accesses of a HASHFILL of two chunks, in order. -/
theorem test_hashfill_accesses : accesses .hashFill t0 [] (ctxOf 0x1000 128 0x3000 0x2000) =
    [.read 0x3000, .read 0x1000, .write 0x1000, .read 0x1040, .write 0x1040, .write 0x3000, .write 0x2000] := by
  decide +kernel

/-- V23: HASHFILL of nothing: the digest begins as V10, the state buffer is as it was. -/
theorem test_hashfill_nothing : after (exec .hashFill (ready (st0At 0x3000) 0))
    (fun t => Memory.read t.mem 0x2000 == 0x1b && Memory.read t.mem 0x203f == 0x17 &&
      Memory.read t.mem 0x303f == 0xdf) = true := by decide +kernel

/-- The record after the first CAPQ, and that the handler is the platform's again. -/
def capqGives (plat : Plat) (backend : List (Block × BackendAnswer)) (cap : BitVec 32) : Bool :=
  after (exec .capq { fresh plat with cfg := { t0 with plat := plat, backend := backend } })
    (fun t => t.cap == cap && (t.contexts.map Context.res).head? == some cap && t.handler == .platform 7 &&
      t.checkpoint == .none && t.det == .ready)

/-- V25, V27: the six rows of 44_capability R186 with `w = 256`; a mismatch is a digest with its last byte changed. -/
theorem test_capq_probes :
    let good : List (Block × BackendAnswer) := [(katInputDefault, .digest v9)]
    let bad : List (Block × BackendAnswer) := [(katInputDefault, .digest (v9.set 63 0x6c#8))]
    capqGives { static := none, vecProbe := .trap, aesProbe := .trap } good 0x00000000#32 = true ∧
    capqGives { static := none, vecProbe := .trap, aesProbe := .ok } bad 0x00000000#32 = true ∧
    capqGives { static := none, vecProbe := .trap, aesProbe := .ok } good 0x00000001#32 = true ∧
    capqGives { static := none, vecProbe := .ok 256#16, aesProbe := .trap } good 0x01000002#32 = true ∧
    capqGives { static := none, vecProbe := .ok 256#16, aesProbe := .ok } bad 0x01000002#32 = true ∧
    capqGives { static := none, vecProbe := .ok 256#16, aesProbe := .ok } good 0x01000003#32 = true := by
  decide +kernel

/-- V26: the static path. -/
theorem test_capq_static :
    let plat (a w : Bool) (v : BitVec 16) : Plat := { static := some ⟨a, w, v⟩, vecProbe := .trap, aesProbe := .trap }
    capqGives (plat true true 128#16) [] 0x00800003#32 = true ∧
    capqGives (plat false true 512#16) [] 0x02000002#32 = true ∧
    capqGives (plat true false 512#16) [] 0x00000001#32 = true := by decide +kernel

/-! ### Steps -/

/-- V31: after reset a HASH is refused for want of the record. -/
theorem test_step_noRecord :
    refusedWith (step ((fresh t0.plat).withFetchWord 32 0x00000001)) .noCapabilityRecord = true := by decide +kernel

/-- V38: a reserved bit is tested before anything else, and the detector does not run. -/
theorem test_step_reserved :
    refusedWith (step ((fresh t0.plat).withFetchWord 32 0x00000015)) .reservedBits = true := by decide +kernel

/-- V35: with `BUF_ALIGN = 64` the base 0x1010 is misaligned. -/
theorem test_step_misaligned :
    refusedWith (step (({ ready [] 64 with contexts := [ctxOf 0x1010 64 0x3000 0x2000] } : State).withFetchWord 32 1))
      .misaligned = true := by decide +kernel

/-- 44_capability R189: a second CAPQ in the time of the first is refused. -/
theorem test_step_concurrentDetect :
    refusedWith (step { fresh t0.plat with pending := [.cmd 0 5#32 1, .cmd 1 5#32 0] }) .concurrentDetect = true := by
  decide +kernel

/-- 20_memory R64: a store to the state buffer while FILL4 reads it is a race. -/
theorem test_step_race :
    refusedWith (step { ready [] 0 with pending := [.cmd 0 3#32 1, .store 0x303f 1#8] }) .race = true := by decide +kernel

/-- 10_state R21: byte `i` of a lane-pair register is bits `8i + 7 : 8i`. -/
theorem test_pairBits :
    (pairBits (t0Constant 0)).extractLsb' 0 8 = 0x00#8 ∧ (pairBits (t0Constant 0)).extractLsb' 8 8 = 0x03#8 ∧
      (pairBits (t0Constant 0)).extractLsb' 248 8 = 0x5d#8 := by decide +kernel

/-! ### Witnesses: for each obligation with hypotheses, what meets them all -/

/-- A buffer command is admissible on a ready core. -/
theorem admissible_of {i : Instr} {s : State} {c : Context} (hc : s.contexts[s.cur]? = some c)
    (h : admission i s c = none) : Admissible i s c :=
  (admission_none_iff hc).1 h

/-- A ready core on which every buffer command is admissible, with memory that is not all zero. -/
abbrev demo : State := ready (katAt 0x1000) 128

/-- The same with no length. -/
abbrev demo0 : State := ready (katAt 0x1000) 0

abbrev demoCtx : Context := ctxOf 0x1000 128 0x3000 0x2000

abbrev demoCtx0 : Context := ctxOf 0x1000 0 0x3000 0x2000

/-- The demo core about to perform these actions. -/
abbrev doing (l : List HostAction) : State := { demo with pending := l }

theorem demo_admits : ∀ i, IsBuffer i → Admissible i demo demoCtx := by
  intro i hi
  apply admissible_of rfl
  cases i <;> first | exact absurd rfl hi | decide +kernel

theorem demo0_admits : ∀ i, IsBuffer i → Admissible i demo0 demoCtx0 := by
  intro i hi
  apply admissible_of rfl
  cases i <;> first | exact absurd rfl hi | decide +kernel

theorem demo_runs {i : Instr} (hi : IsBuffer i) : ∃ t, exec i demo = .next t :=
  ⟨_, exec_admissible hi (demo_admits i hi)⟩

theorem demo_wf : Memory.wf demo.mem = true := by decide +kernel

theorem demo0_wf : Memory.wf demo0.mem = true := by decide +kernel

/-- Both clauses of `ReservedWordsRefused`: the least word with a reserved bit; the operation codes 0, 6 and 15. -/
theorem witness_ReservedWordsRefused :
    (doing [.cmd 0 0x10#32 0]).pending = [.cmd 0 0x10#32 0] ∧ (doing []).contexts[0]? = some demoCtx ∧
    (0x10#32).toNat / 16 ≠ 0 ∧ ((0#32).toNat / 16 = 0 ∧ (0#32).toNat % 16 = 0) ∧
    ((6#32).toNat / 16 = 0 ∧ 6 ≤ (6#32).toNat % 16) ∧ ((15#32).toNat / 16 = 0 ∧ 6 ≤ (15#32).toNat % 16) :=
  ⟨rfl, rfl, by decide, by decide, by decide, by decide⟩

/-- A HASH overlapped by a load outside what it writes. -/
theorem witness_StepRunsCommand :
    (doing [.cmd 0 1#32 1, .load 0x1000]).pending = .cmd 0 1#32 1 :: [.load 0x1000] ∧
    (doing []).contexts[0]? = some demoCtx ∧ decode 1#32 = .ok .hash ∧
    overlapRefusal 0 (runsDetector demo .hash) (readSpans .hash demoCtx) (writeSpans .hash demoCtx)
      (doing [.load 0x1000]) [.load 0x1000] = none :=
  ⟨rfl, rfl, rfl, by decide +kernel⟩

theorem witness_FetchedWordRuns : demo.contexts[demo.cur]? = some demoCtx ∧ decodeTableWord 32 5 = some .capq :=
  ⟨rfl, rfl⟩

theorem witness_IdleCoreDoesNothing : demo.pending = [] := rfl

theorem witness_HashLaneView : t0.tbl1 = tbl1Default := rfl

theorem witness_HashWritesDigest : Admissible .hash demo demoCtx ∧ Memory.wf demo.mem = true :=
  ⟨demo_admits _ (by decide), demo_wf⟩

theorem witness_HashFrame : (∃ t, exec .hash demo = .next t) ∧ demo.contexts[demo.cur]? = some demoCtx :=
  ⟨demo_runs (by decide), rfl⟩

theorem witness_HashOfEmptyBuffer :
    Admissible .hash demo0 demoCtx0 ∧ Memory.wf demo0.mem = true ∧ demoCtx0.argLen = 0 :=
  ⟨demo0_admits _ (by decide), demo0_wf, rfl⟩

theorem witness_Fill1WritesStream : Admissible .fill1 demo demoCtx ∧ Memory.wf demo.mem = true :=
  ⟨demo_admits _ (by decide), demo_wf⟩

theorem witness_Fill1Frame : (∃ t, exec .fill1 demo = .next t) ∧ demo.contexts[demo.cur]? = some demoCtx :=
  ⟨demo_runs (by decide), rfl⟩

/-- Both clauses: the least length that writes a chunk, and no length. -/
theorem witness_Fill1StateIsLastChunk :
    (Admissible .fill1 (ready (katAt 0x1000) 64) (ctxOf 0x1000 64 0x3000 0x2000) ∧
      Memory.wf (ready (katAt 0x1000) 64).mem = true ∧ 64 ≤ (ctxOf 0x1000 64 0x3000 0x2000).argLen) ∧
    (Admissible .fill1 demo0 demoCtx0 ∧ Memory.wf demo0.mem = true ∧ demoCtx0.argLen = 0) :=
  ⟨⟨admissible_of rfl (by decide +kernel), by decide +kernel, by decide⟩,
    demo0_admits _ (by decide), demo0_wf, rfl⟩

/-- 64 + 64 bytes, and the boundary splits 0 + 128 and 128 + 0. -/
theorem witness_Fill1TwoCallsEqualOne :
    Admissible .fill1 demo demoCtx ∧ Memory.wf demo.mem = true ∧ demo.cfg.wf = true ∧
      (demoCtx.argLen = 64 + 64 ∧ 64 % 64 = 0) ∧ (demoCtx.argLen = 0 + 128 ∧ 0 % 64 = 0) ∧
      (demoCtx.argLen = 128 + 0 ∧ 128 % 64 = 0) :=
  ⟨demo_admits _ (by decide), demo_wf, by decide +kernel, by decide, by decide, by decide⟩

theorem witness_Fill4WritesStream : Admissible .fill4 demo demoCtx ∧ Memory.wf demo.mem = true :=
  ⟨demo_admits _ (by decide), demo_wf⟩

theorem witness_Fill4Frame : (∃ t, exec .fill4 demo = .next t) ∧ demo.contexts[demo.cur]? = some demoCtx :=
  ⟨demo_runs (by decide), rfl⟩

theorem witness_FillsOfNothing :
    Memory.wf demo0.mem = true ∧ demoCtx0.argLen = 0 ∧ Admissible .fill1 demo0 demoCtx0 ∧
      Admissible .fill4 demo0 demoCtx0 :=
  ⟨demo0_wf, rfl, demo0_admits _ (by decide), demo0_admits _ (by decide)⟩

/-- The two contexts of one core, with equal (zero) state bytes and different buffers and lengths. -/
theorem witness_FillsDependOnStateBytes :
    Memory.wf demo.mem = true ∧ ({ demo with cur := 1 } : State).cfg = demo.cfg ∧
    Memory.readBlock demo.mem 0x6000 = Memory.readBlock demo.mem 0x3000 ∧
    (Admissible .fill1 demo demoCtx ∧ Admissible .fill1 { demo with cur := 1 } (ctxOf 0x5000 64 0x6000 0x7000)) ∧
    (Admissible .fill4 demo demoCtx ∧ Admissible .fill4 { demo with cur := 1 } (ctxOf 0x5000 64 0x6000 0x7000)) ∧
    64 * 0 < demoCtx.argLen ∧ 64 * 0 < (ctxOf 0x5000 64 0x6000 0x7000).argLen :=
  ⟨demo_wf, rfl, by decide +kernel, ⟨demo_admits _ (by decide), admissible_of rfl (by decide +kernel)⟩,
    ⟨demo_admits _ (by decide), admissible_of rfl (by decide +kernel)⟩, by decide, by decide⟩

theorem witness_HashFillWritesAll : Admissible .hashFill demo demoCtx ∧ Memory.wf demo.mem = true :=
  ⟨demo_admits _ (by decide), demo_wf⟩

theorem witness_HashFillFrame : (∃ t, exec .hashFill demo = .next t) ∧ demo.contexts[demo.cur]? = some demoCtx :=
  ⟨demo_runs (by decide), rfl⟩

theorem witness_FusionEquivalence : Admissible .hashFill demo demoCtx ∧ Memory.wf demo.mem = true :=
  ⟨demo_admits _ (by decide), demo_wf⟩

theorem witness_HashFillOfNothing :
    Admissible .hashFill demo0 demoCtx0 ∧ Memory.wf demo0.mem = true ∧ demoCtx0.argLen = 0 :=
  ⟨demo0_admits _ (by decide), demo0_wf, rfl⟩

theorem witness_SecondPassHashesTheFill : Admissible .hashFill demo demoCtx ∧ Memory.wf demo.mem = true :=
  ⟨demo_admits _ (by decide), demo_wf⟩

/-- The first and the last byte of the state buffer are read by FILL1, the bytes beside it are not; likewise its writes to the
output buffer. -/
theorem witness_EachByteAccessedOnce :
    Admissible .fill1 demo demoCtx ∧
    (∃ x ∈ readSpans .fill1 demoCtx, InSpan 0x3000 x ∧ InSpan 0x303f x) ∧
    (∀ x ∈ readSpans .fill1 demoCtx, ¬ InSpan 0x2fff x ∧ ¬ InSpan 0x3040 x) ∧
    (∃ x ∈ writeSpans .fill1 demoCtx, InSpan 0x1000 x ∧ InSpan 0x107f x) ∧
    (∀ x ∈ writeSpans .fill1 demoCtx, ¬ InSpan 0x0fff x ∧ ¬ InSpan 0x1080 x) := by
  refine ⟨demo_admits _ (by decide), ?_, ?_, ?_, ?_⟩ <;>
    simp [readSpans, writeSpans, InSpan, Context.stateSpan, Context.bufSpan, ctxOf]

/-- Two cores that differ in `HANDLER`, in `RES`, in `CAP.WIDE_SIMD` and in a byte FILL1 does not read. -/
theorem witness_ResultsDependOnFootprint :
    Admissible .fill1 demo demoCtx ∧
    Admissible .fill1 { demo with
      handler := .platform 9, cap := 0x01000001#32, mem := [], contexts := [{ demoCtx with res := 1#32 }] }
      { demoCtx with res := 1#32 } ∧
    Memory.wf demo.mem = true ∧ Memory.wf [] = true ∧ IsBuffer .fill1 ∧
    (∀ r, ({ demoCtx with res := 1#32 } : Context).arg r = demoCtx.arg r) ∧
    ∀ x ∈ readSpans .fill1 demoCtx, ∀ a, InSpan a x → Memory.read [] a = Memory.read demo.mem a := by
  refine ⟨demo_admits _ (by decide), admissible_of rfl (by decide +kernel), demo_wf, rfl, by decide,
    fun r => by cases r <;> rfl, ?_⟩
  intro x hx a ha
  simp only [readSpans, List.mem_singleton] at hx
  subst hx
  simp only [InSpan, Context.stateSpan] at ha
  obtain ⟨h1, h2⟩ := ha
  have h1 : 0x3000 ≤ a := h1
  have h : ∀ k ∈ demo.mem, k.1 ≠ a := by
    intro k hk
    simp only [ready, katAt, List.mem_map, List.mem_range] at hk
    obtain ⟨j, hj, rfl⟩ := hk
    show 0x1000 + 8 * j ≠ a
    omega
  generalize demo.mem = m at h
  induction m with
  | nil => rfl
  | cons p m ih =>
    rw [show Memory.read (p :: m) a = if p.1 = a then p.2 else Memory.read m a from rfl,
      if_neg (h p List.mem_cons_self)]
    exact ih fun k hk => h k (List.mem_cons_of_mem _ hk)

/-- HASHFILL on the first context and FILL4 on the second. -/
theorem witness_DisjointContextsCommute :
    Admissible .hashFill { demo with cur := 0 } demoCtx ∧
    Admissible .fill4 { demo with cur := 1 } (ctxOf 0x5000 64 0x6000 0x7000) ∧ Memory.wf demo.mem = true ∧
    NoConflict (readSpans .hashFill demoCtx) (writeSpans .hashFill demoCtx)
      (readSpans .fill4 (ctxOf 0x5000 64 0x6000 0x7000)) (writeSpans .fill4 (ctxOf 0x5000 64 0x6000 0x7000)) := by
  refine ⟨demo_admits _ (by decide), admissible_of rfl (by decide +kernel), demo_wf, fun a => ⟨?_, ?_⟩⟩ <;>
    simp only [readSpans, writeSpans, Context.bufSpan, Context.stateSpan, Context.digestSpan, ctxOf, InSpan,
      List.cons_append, List.nil_append, List.mem_cons, List.not_mem_nil, or_false, forall_eq_or_imp, forall_eq] <;>
    omega

theorem witness_OtherContextsUntouched : ∃ t, exec .hashFill demo = .next t := demo_runs (by decide)

/-- A platform with a static query, and one on which both probes execute. -/
theorem witness_CapqOutcomeTable :
    ((fresh ⟨some ⟨true, false, 512#16⟩, .trap, .trap⟩).contexts[0]? = some (ctxOf 0x1000 64 0x3000 0x2000) ∧
      (fresh ⟨some ⟨true, false, 512#16⟩, .trap, .trap⟩).det = .uninit ∧
      (fresh ⟨some ⟨true, false, 512#16⟩, .trap, .trap⟩).cfg.plat.static = some ⟨true, false, 512#16⟩) ∧
    ((fresh ⟨none, .trap, .ok⟩).det = .uninit ∧ (fresh ⟨none, .trap, .ok⟩).cfg.plat.static = none ∧
      (fresh ⟨none, .trap, .ok⟩).cfg.plat.vecProbe = .trap) ∧
    ((fresh ⟨none, .ok 0xFFFF#16, .ok⟩).cfg.plat.static = none ∧
      (fresh ⟨none, .ok 0xFFFF#16, .ok⟩).cfg.plat.vecProbe = .ok 0xFFFF#16) :=
  ⟨⟨rfl, rfl, rfl⟩, ⟨rfl, rfl, rfl⟩, rfl, rfl⟩

theorem fresh_runs (p : Plat) : ∃ t, exec .capq (fresh p) = .next t :=
  ⟨_, execCapq_uninit (s := fresh p) (c := ctxOf 0x1000 64 0x3000 0x2000) rfl rfl⟩

theorem witness_CapqFirstFrame :
    (∃ t, exec .capq (fresh t0.plat) = .next t) ∧
      (fresh t0.plat).contexts[(fresh t0.plat).cur]? = some (ctxOf 0x1000 64 0x3000 0x2000) ∧
      (fresh t0.plat).det = .uninit ∧ (fresh t0.plat).checkpoint = .none :=
  ⟨fresh_runs _, rfl, rfl, rfl⟩

theorem witness_CapqStaticPath :
    (fresh ⟨some ⟨true, true, 128#16⟩, .trap, .trap⟩).contexts[0]? = some (ctxOf 0x1000 64 0x3000 0x2000) ∧
    (fresh ⟨some ⟨true, true, 128#16⟩, .trap, .trap⟩).det = .uninit ∧
    (fresh ⟨some ⟨true, true, 128#16⟩, .trap, .trap⟩).cfg.plat.static = some ⟨true, true, 128#16⟩ :=
  ⟨rfl, rfl, rfl⟩

theorem witness_CapqLaterIsPureRead : demo.contexts[demo.cur]? = some demoCtx ∧ demo.det = .ready := ⟨rfl, rfl⟩

/-- All three clauses: a digest with one byte changed, and the two probes trapping. -/
theorem witness_ProbesAndSelfTestGate :
    (fresh ⟨none, .trap, .trap⟩).contexts[0]? = some (ctxOf 0x1000 64 0x3000 0x2000) ∧
    (fresh ⟨none, .trap, .trap⟩).det = .uninit ∧ (fresh ⟨none, .trap, .trap⟩).cfg.plat.static = none ∧
    (fresh ⟨none, .trap, .trap⟩).cfg.plat.aesProbe = .trap ∧ (fresh ⟨none, .trap, .trap⟩).cfg.plat.vecProbe = .trap ∧
    (let cfg := { t0 with backend := [(katInputDefault, .digest (v9.set 63 0x6c#8))] }
     backendAnswer cfg cfg.katInput = .digest (v9.set 63 0x6c#8) ∧ v9.set 63 0x6c#8 ≠ cfg.refDigest ∧
      cfg.plat.static = none) :=
  ⟨rfl, rfl, rfl, rfl, rfl, by decide +kernel, by decide +kernel, rfl⟩

/-- A self-consistent configuration: the reference digest is the conforming hash of the input. -/
theorem witness_ConformingCorePassesSelfTest :
    let cfg := { t0 with backend := [], refDigest := hashOf t0 [katInputDefault] }
    let s : State := { fresh t0.plat with cfg := cfg }
    s.contexts[s.cur]? = some (ctxOf 0x1000 64 0x3000 0x2000) ∧ s.det = .uninit ∧ s.cfg.plat.static = none ∧
      s.cfg.plat.aesProbe = .ok ∧ s.cfg.backend = [] ∧ s.cfg.refDigest = hashOf s.cfg [s.cfg.katInput] :=
  ⟨rfl, rfl, rfl, rfl, rfl, rfl⟩

theorem witness_TrapEntryIsPrecise : demo.contexts[demo.cur]? = some demoCtx := rfl

/-- Both clauses: while the detector runs, and a second command in the time of the first CAPQ. -/
theorem witness_DetectorRunsAlone :
    (demo.contexts[demo.cur]? = some demoCtx ∧ ({ demo with det := .probing } : State).det = .probing) ∧
    ({ fresh t0.plat with pending := [.cmd 0 (encode .capq) 1, .cmd 1 (encode .hash) 0] } : State).pending =
      .cmd (fresh t0.plat).cur (encode .capq) 1 :: .cmd 1 (encode .hash) 0 :: [] ∧
    (fresh t0.plat).det = .uninit ∧ 1 ≠ (fresh t0.plat).cur ∧
    (fresh t0.plat).contexts[1]? = some (ctxOf 0x5000 64 0x6000 0x7000) :=
  ⟨⟨rfl, rfl⟩, rfl, rfl, by decide, rfl⟩

/-- A buffer command. -/
theorem witness_BootSequence : IsBuffer .hash := by decide

theorem witness_RunsExactlyWhenAdmissible : IsBuffer .hash ∧ Admissible .hash demo demoCtx :=
  ⟨by decide, demo_admits _ (by decide)⟩

/-- A HASH of the ready core whose refusal is `r`. -/
def refusal (c : Context) (cap : BitVec 32) : Option Refusal :=
  admission .hash { demo with contexts := [c], cap := cap } c

/-- Each clause of `RefusalOrder` is the first that fails, at a boundary: `UNINIT`; `CAP.AES = 0`; one register unwritten;
length one over; one chunk past the top; base one short of a multiple; the digest on the buffer's last chunk; the digest just
past the launch memory. -/
theorem witness_RefusalOrder :
    admission .hash { demo with det := .uninit } demoCtx = some .noCapabilityRecord ∧
    refusal demoCtx 0x01000002#32 = some .notCapable ∧
    refusal { demoCtx with digestWritten := false } 1#32 = some .unwrittenOperand ∧
    refusal (ctxOf 0x1000 129 0x3000 0x2000) 1#32 = some .sizeNotMultipleOf64 ∧
    refusal (ctxOf (2 ^ 64 - 64) 128 0x3000 0x2000) 1#32 = some .addressRange ∧
    refusal (ctxOf 0x103f 128 0x3000 0x2000) 1#32 = some .misaligned ∧
    refusal (ctxOf 0x1000 128 0x3000 0x1040) 1#32 = some .overlap ∧
    refusal (ctxOf 0x1000 128 0x3000 0x10000) 1#32 = some .notBacked := by decide +kernel

/-- All four clauses: a store to the last byte FILL4 reads, and to the byte after it; a load of the last byte it writes, and of
the byte after it. -/
theorem witness_OverlappingAccessIsRace :
    IsBuffer .fill4 ∧ Admissible .fill4 { demo with cur := 0 } demoCtx ∧
    (doing [.cmd 0 (encode .fill4) 1, .store 0x303f 1#8]).pending =
      .cmd 0 (encode .fill4) 1 :: .store 0x303f 1#8 :: [] ∧
    (∃ x ∈ readSpans .fill4 demoCtx ++ writeSpans .fill4 demoCtx, InSpan 0x303f x) ∧
    (∀ x ∈ readSpans .fill4 demoCtx ++ writeSpans .fill4 demoCtx, ¬ InSpan 0x3040 x) ∧
    (∃ x ∈ writeSpans .fill4 demoCtx, InSpan 0x107f x) ∧ (∀ x ∈ writeSpans .fill4 demoCtx, ¬ InSpan 0x1080 x) := by
  refine ⟨by decide, demo_admits _ (by decide), rfl, ?_, ?_, ?_, ?_⟩ <;>
    simp [readSpans, writeSpans, InSpan, Context.stateSpan, Context.bufSpan, ctxOf]

/-- The largest value an operand register holds. -/
theorem witness_OperandRegisterWrite :
    (doing [.arg 1 .digest (2 ^ 64 - 1)]).pending = .arg 1 .digest (2 ^ 64 - 1) :: [] ∧
    (doing []).contexts[1]? = some (ctxOf 0x5000 64 0x6000 0x7000) ∧ 2 ^ 64 - 1 < 2 ^ demo.cfg.addrBits :=
  ⟨rfl, rfl, by decide⟩

theorem witness_OperandWriteOrder : ArgReg.buf ≠ ArgReg.len := by decide

theorem witness_BlockStoreThenLoad : Memory.wf demo.mem = true := demo_wf

/-- Both clauses, at the last backed byte. -/
theorem witness_HostMemoryAccess :
    Memory.wf demo.mem = true ∧
    ((doing [.store 0xFFFF 7#8]).pending = .store 0xFFFF 7#8 :: [] ∧ Writable demo.cfg 0xFFFF) ∧
    ((doing [.load 0xFFFF]).pending = .load 0xFFFF :: [] ∧ Readable demo.cfg 0xFFFF) :=
  ⟨demo_wf, ⟨rfl, backsWrite_iff.1 (by decide)⟩, rfl, backsRead_iff.1 (by decide)⟩

theorem witness_ResetFromAnyState : (doing [.reset]).pending = .reset :: [] := rfl

/-- The demo core meets the invariant and has a step that changes it. -/
theorem witness_StepKeepsInvariant :
    Inv (doing [.store 0x2000 7#8]) ∧ ∃ t, step (doing [.store 0x2000 7#8]) = .next t ∧ t ≠ doing [.store 0x2000 7#8] := by
  refine ⟨⟨by decide +kernel, demo_wf, ?_, ?_, by decide, by decide, by decide, by decide, rfl, by decide⟩, _, rfl, ?_⟩
  · decide +kernel
  · intro c hc
    simp only [ready, List.mem_cons, List.not_mem_nil, or_false] at hc
    rcases hc with rfl | rfl <;>
      exact ⟨by decide, rfl, rfl, fun r => by cases r <;> decide⟩
  · intro h
    have := congrArg State.pending h
    simp at this

theorem witness_ConfigurationNeverChanges : ∃ t, step (doing [.handler 3]) = .next t := ⟨_, rfl⟩

/-- Both clauses: a step of a ready core, and a CAPQ of a core that has no record yet. -/
theorem witness_RecordFixedOnceReady :
    (∃ t, step (doing [.handler 3]) = .next t ∧ (doing [.handler 3]).det = .ready) ∧
    ∃ t, step ((fresh t0.plat).withFetchWord 32 (encode .capq).toNat) = .next t ∧ (fresh t0.plat).det = .uninit := by
  refine ⟨⟨_, rfl, rfl⟩, publishRes (detect ((fresh t0.plat).select 0 (encode .capq))), ?_, rfl⟩
  exact Eq.trans (issue_alone (s := fresh t0.plat) (k := 0) (w := encode .capq) (i := .capq)
      (c := ctxOf 0x1000 64 0x3000 0x2000) (overlap := []) rfl rfl rfl)
    (execCapq_uninit (s := (fresh t0.plat).select 0 (encode .capq))
      (c := { ctxOf 0x1000 64 0x3000 0x2000 with cmd := encode .capq }) rfl rfl)

/-- The last chunk of two, with the default `TBL1`. -/
theorem witness_GeneratorRounds : 1 < 2 ∧ t0.tbl1 = tbl1Default := ⟨by decide, rfl⟩

end Sys2Proof.Tests
end

section
/-! ## What every command leaves alone, by the host action a step performs -/

namespace Sys2Proof.Machine

open Sys2Proof.Safety

/-! ### The context list under an update -/

/-- Replacing the context at `k` leaves every other one. -/
theorem sameOthers_of_set {s t : State} {d : Context} (h : t.contexts = s.contexts.set s.cur d) : SameOthers s t :=
  fun _ hk => by rw [h, List.getElem?_set_ne (Ne.symm hk)]

theorem publishRes_others (s : State) : SameOthers s (publishRes s) := by
  unfold publishRes
  split
  · exact fun _ _ => rfl
  · exact sameOthers_of_set rfl

/-! ### Commands -/

/-- What no command changes: the other contexts, the configuration, the number of contexts, the current context's number and
the pending host actions (10_state R28, R36, R37; 60_exceptions R213). -/
structure CommandFrame (s t : State) : Prop where
  others : SameOthers s t
  cfg : t.cfg = s.cfg
  nctx : t.contexts.length = s.contexts.length
  cur : t.cur = s.cur
  pending : t.pending = s.pending

theorem retire_frame (s : State) (e : Engine) : CommandFrame s (s.retire e) :=
  ⟨sameOthers_of_set rfl, rfl, by simp, rfl, rfl⟩

theorem publishRes_frame (s : State) : CommandFrame s (publishRes s) :=
  ⟨publishRes_others s, by simp, by simp, by simp, by simp⟩

theorem detect_frame (s : State) : CommandFrame s (detect s) := by
  obtain ⟨-, -, hp, -⟩ := detect_spec s
  exact ⟨hp.others, hp.cfg, hp.nctx, hp.cur, hp.pending⟩

theorem CommandFrame.trans {s t u : State} (h : CommandFrame s t) (k : CommandFrame t u) : CommandFrame s u where
  others j hj := (k.others j (h.cur ▸ hj)).trans (h.others j hj)
  cfg := k.cfg.trans h.cfg
  nctx := k.nctx.trans h.nctx
  cur := k.cur.trans h.cur
  pending := k.pending.trans h.pending

/-- What a CAPQ that runs has done: published the record in `RES`, after the detector when there was none (44_capability
R177). -/
theorem execCapq_next_publish {s t : State} (h : execCapq s = .next t) :
    (s.det = .uninit ∧ t = publishRes (detect s)) ∨ (s.det = .ready ∧ t = publishRes s) := by
  obtain ⟨c, hc, h | ⟨hd, ht⟩⟩ := execCapq_next h
  · exact .inl h
  · exact .inr ⟨hd, ht.trans (publishRes_eq hc).symm⟩

/-- What a command that runs has done: a buffer command retired its body; a CAPQ published the record, after the detector when
there was none. -/
theorem exec_next {i : Instr} {s t : State} (h : exec i s = .next t) :
    (∃ c, Admissible i s c ∧ t = s.retire (commandBody i s.cfg (s.engine c))) ∨
      (i = .capq ∧ s.det = .uninit ∧ t = publishRes (detect s)) ∨ (s.det = .ready ∧ t = publishRes s) := by
  by_cases hi : i = .capq
  · subst hi
    exact .inr ((execCapq_next_publish h).imp_left fun h => ⟨rfl, h⟩)
  · exact .inl (exec_buffer_next hi h)

theorem exec_frame {i : Instr} {s t : State} (h : exec i s = .next t) : CommandFrame s t := by
  obtain ⟨c, -, rfl⟩ | ⟨-, -, rfl⟩ | ⟨-, rfl⟩ := exec_next h
  · exact retire_frame s _
  · exact (detect_frame s).trans (publishRes_frame _)
  · exact publishRes_frame s

/-- Settles O35: every command is one of the three updates of `exec_next`, and each has the frame. -/
theorem otherContextsUntouched : Obligations.OtherContextsUntouched := by
  intro i s t h
  obtain ⟨ho, hcfg, hn, hcur, hp⟩ := exec_frame h
  exact ⟨ho, hcfg, hn, hcur, hp⟩

/-! ### Steps -/

/-- An action that happens keeps the configuration and the number of contexts. -/
theorem perform_config {s t : State} {rest : List HostAction} {a : HostAction} (h : perform s rest a = .next t) :
    t.cfg = s.cfg ∧ t.contexts.length = s.contexts.length := by
  obtain ⟨k, c, r, v, -, -, -, rfl⟩ | ⟨k, c, w, n, i, -, -, -, he⟩ | ⟨x, -, -, rfl⟩ | ⟨x, b, -, -, rfl⟩ | ⟨id, -, rfl⟩ |
    ⟨-, rfl⟩ := perform_next h
  case inr.inl =>
    have hf := exec_frame he
    exact ⟨hf.cfg, hf.nctx.trans List.length_set⟩
  all_goals simp

/-- Settles O57: a step is nothing or one host action, and each of the six keeps both. -/
theorem configurationNeverChanges : Obligations.ConfigurationNeverChanges := by
  intro s t h
  obtain ⟨-, rfl⟩ | ⟨a, rest, -, hp⟩ := step_next h
  · exact ⟨rfl, rfl⟩
  · exact perform_config (s := { s with pending := rest }) hp

/-! ### The capability record -/

/-- Only the word of the table decodes to a command (30_encoding R82, R88). -/
theorem eq_encode_of_decode {w : BitVec 32} {i : Instr} (h : decode w = .ok i) : w = encode i := by
  unfold decode at h
  split at h
  · cases h
  · rename_i hr
    have hw : w.toNat = opField w := by
      unfold rsvField opField at *
      omega
    apply BitVec.eq_of_toNat_eq
    rw [hw]
    unfold decodeOp at h
    split at h <;> cases h <;> (rename_i ho; rw [ho]; rfl)

/-- A command keeps `DET_STATE` and `CAP`, but for the CAPQ that runs the detector (10_state R33, R34). -/
theorem exec_record {i : Instr} {s t : State} (h : exec i s = .next t) :
    (t.det = s.det ∧ t.cap = s.cap) ∨ (i = .capq ∧ s.det = .uninit ∧ t.det = .ready) := by
  obtain ⟨c, -, rfl⟩ | ⟨hi, hd, rfl⟩ | ⟨-, rfl⟩ := exec_next h
  · exact .inl ⟨rfl, rfl⟩
  · exact .inr ⟨hi, hd, (publishRes_det _).trans (detect_spec s).2.1⟩
  · exact .inl ⟨publishRes_det s, publishRes_cap s⟩

/-- An action other than a reset keeps `DET_STATE` and `CAP`, but for the CAPQ that runs the detector. -/
theorem perform_record {s t : State} {rest : List HostAction} {a : HostAction} (h : perform s rest a = .next t)
    (hr : a ≠ .reset) :
    (t.det = s.det ∧ t.cap = s.cap) ∨
      (s.det = .uninit ∧ t.det = .ready ∧ ∃ k window, a = .cmd k (encode .capq) window) := by
  obtain ⟨k, c, r, v, -, -, -, rfl⟩ | ⟨k, c, w, n, i, rfl, -, hw, he⟩ | ⟨x, -, -, rfl⟩ | ⟨x, b, -, -, rfl⟩ |
    ⟨id, -, rfl⟩ | ⟨ha, -⟩ := perform_next h
  case inr.inl =>
    obtain hk | ⟨rfl, hd, ht⟩ := exec_record he
    · exact .inl hk
    · exact .inr ⟨hd, ht, k, n, by rw [eq_encode_of_decode hw]⟩
  case inr.inr.inr.inr.inr => exact absurd ha hr
  all_goals exact .inl ⟨rfl, rfl⟩

/-- A step that is not a reset keeps `DET_STATE` and `CAP`, but for the CAPQ that runs the detector. -/
theorem step_record {s t : State} (h : step s = .next t) (hr : ∀ rest, s.pending ≠ .reset :: rest) :
    (t.det = s.det ∧ t.cap = s.cap) ∨
      (s.det = .uninit ∧ t.det = .ready ∧ ∃ k window rest, s.pending = .cmd k (encode .capq) window :: rest) := by
  obtain ⟨-, rfl⟩ | ⟨a, rest, ha, hp⟩ := step_next h
  · exact .inl ⟨rfl, rfl⟩
  · refine (perform_record hp fun h => hr rest (h ▸ ha)).imp_right ?_
    rintro ⟨hd, ht, k, n, rfl⟩
    exact ⟨hd, ht, k, n, rest, ha⟩

/-- Settles O58: `step_record`, read at `READY` and at `UNINIT`. -/
theorem recordFixedOnceReady : Obligations.RecordFixedOnceReady := by
  intro s t h hr
  obtain ⟨hd, hc⟩ | ⟨hd, ht, hcmd⟩ := step_record h hr
  · exact ⟨fun hs => ⟨hd.trans hs, hc⟩, fun hs => .inl ⟨hd.trans hs, hc⟩⟩
  · exact ⟨fun hs => absurd (hd.symm.trans hs) (by decide), fun _ => .inr ⟨ht, hcmd⟩⟩

/-! ### A register write of the host -/

/-- A write of a value that fits completes (10_state R26). -/
theorem hostWriteArg_fits {s : State} {k v : Nat} {c : Context} (hc : s.contexts[k]? = some c)
    (hv : v < 2 ^ s.cfg.addrBits) (r : ArgReg) :
    hostWriteArg s k r v = .next { s with contexts := s.contexts.set k (c.setArg v r) } := by
  simp only [hostWriteArg, hc, hv, if_true, State.setArgOf_eq hc]

/-- Settles O49: the step is `hostWriteArg_fits`, and `setArg` changes one register and its written bit. -/
theorem operandRegisterWrite : Obligations.OperandRegisterWrite := by
  intro s k c r v rest hp hc hv
  obtain ⟨hk, -⟩ := List.getElem?_eq_some_iff.1 hc
  have hstep := (step_cons hp).trans (hostWriteArg_fits (s := { s with pending := rest }) hc hv r)
  refine ⟨_, c.setArg v r, hstep, List.getElem?_set_self hk, by simp, by simp, fun q hq => by simp [hq], ?scratch,
    by simp, by simp, fun j hj => List.getElem?_set_ne (Ne.symm hj), ?shared, rfl⟩
  case scratch => exact ⟨by simp, by simp, by simp, by simp, by simp, by simp⟩
  case shared => exact ⟨rfl, rfl, rfl, rfl, rfl, rfl, rfl, rfl, List.length_set⟩

end Sys2Proof.Machine
end

section
/-! ## The invariant -/

namespace Sys2Proof.Machine

open Sys2Proof.Safety

/-! ### What a context must satisfy -/

/-- The invariant of a context speaks of `OFF`, `PHASE` and the operand registers only. -/
theorem contextInv_congr {cfg : Config} {c d : Context} (h : ContextInv cfg c) (ho : d.off = c.off)
    (hp : d.phase = c.phase) (ha : ∀ r, d.arg r = c.arg r) : ContextInv cfg d :=
  ⟨ho ▸ h.off, ho ▸ h.offChunk, hp.trans h.phase, fun r => ha r ▸ h.args r⟩

theorem contextInv_reset (cfg : Config) : ContextInv cfg Context.reset :=
  ⟨Nat.two_pow_pos _, rfl, rfl, fun r => by cases r <;> exact Nat.two_pow_pos _⟩

theorem contextInv_setArg {cfg : Config} {c : Context} {v : Nat} (h : ContextInv cfg c) (hv : v < 2 ^ cfg.addrBits)
    (r : ArgReg) : ContextInv cfg (c.setArg v r) := by
  refine ⟨by simpa using h.off, by simpa using h.offChunk, by simpa using h.phase, fun q => ?_⟩
  rw [Context.setArg_arg]
  split
  · exact hv
  · exact h.args q

theorem contextInv_setHash {cfg : Config} {c : Context} (h : ContextInv cfg c) (l : LaneState) :
    ContextInv cfg (c.setHash l) :=
  contextInv_congr h rfl rfl fun r => by cases r <;> rfl

theorem contextInv_res {cfg : Config} {c : Context} (h : ContextInv cfg c) (v : BitVec 32) :
    ContextInv cfg { c with res := v } :=
  contextInv_congr h rfl rfl fun r => by cases r <;> rfl

theorem contextInv_cmd {cfg : Config} {c : Context} (h : ContextInv cfg c) (w : BitVec 32) :
    ContextInv cfg { c with cmd := w } :=
  contextInv_congr h rfl rfl fun r => by cases r <;> rfl

/-- A free value of `OFF` fits the register (10_state R24). -/
theorem freeOff_lt (cfg : Config) (n : Nat) : freeOff cfg n < 2 ^ cfg.addrBits :=
  Nat.mod_lt _ (Nat.two_pow_pos _)

/-- A free value of `OFF` is a multiple of 64, because `2^ADDR_BITS` is one (10_state R24). -/
theorem freeOff_chunk {cfg : Config} (h : 7 ≤ cfg.addrBits) (n : Nat) : freeOff cfg n % 64 = 0 := by
  have h64 : 64 ∣ 2 ^ cfg.addrBits := Nat.pow_dvd_pow 2 (show 6 ≤ cfg.addrBits by omega)
  rw [freeOff, Nat.mod_mod_of_dvd _ h64, Nat.mul_mod_right]

@[simp] theorem Context.forget_arg (c : Context) (cfg : Config) (n : Nat) (r : ArgReg) :
    (c.forget cfg n).arg r = c.arg r := by
  cases r <;> rfl

theorem contextInv_forget {cfg : Config} {c : Context} (hb : 7 ≤ cfg.addrBits) (hp : c.phase = .idle)
    (ha : ∀ r, c.arg r < 2 ^ cfg.addrBits) (n : Nat) : ContextInv cfg (c.forget cfg n) :=
  ⟨freeOff_lt cfg _, freeOff_chunk hb _, hp, by simpa using ha⟩

/-- The operand registers of contexts with the same host registers. -/
theorem sameHostRegs_arg {c d : Context} (h : SameHostRegs c d) (r : ArgReg) : d.arg r = c.arg r := by
  cases r
  · exact h.argBuf
  · exact h.argLen
  · exact h.argState
  · exact h.argDigest

/-- Every command ends with `PHASE = IDLE` when it starts so (10_state R25). -/
theorem commandBody_phase (i : Instr) (cfg : Config) (e : Engine) (h : e.ctx.phase = .idle) :
    (commandBody i cfg e).ctx.phase = .idle := by
  cases i <;> rw [commandBody]
  case hash => obtain ⟨l, hl⟩ := hashCommand_ctx cfg e; rw [hl]
  case fill1 => obtain ⟨l, hl⟩ := fill1Command_ctx cfg e; rw [hl]; exact h
  case fill4 => obtain ⟨l, hl⟩ := fill4Command_ctx cfg e; rw [hl]; exact h
  case hashFill => obtain ⟨l, g, hl⟩ := hashFillCommand_ctx cfg e; rw [hl]
  case capq => exact h

/-- The context a buffer command retires with meets the invariant. -/
theorem contextInv_retired {cfg : Config} {e : Engine} (hb : 7 ≤ cfg.addrBits) (h : ContextInv cfg e.ctx) (i : Instr)
    (n : Nat) : ContextInv cfg ((commandBody i cfg e).ctx.forget cfg n) := by
  obtain ⟨d, hd, hr⟩ := commandBody_hostRegs i cfg e
  refine contextInv_forget hb (commandBody_phase i cfg e h.phase) (fun r => ?_) n
  rw [hd, sameHostRegs_arg hr]
  exact h.args r

/-! ### The record -/

/-- The reserved bits of the record the detector computes are zero (10_state R33). -/
theorem capOf_reserved (cfg : Config) : capReserved (capOf cfg) = 0#14 := by
  unfold capOf
  split
  · exact capReserved_capRecord ..
  · unfold capOfProbes
    split <;> exact capReserved_capRecord ..

/-- The record the detector computes has width 0 without the vector extension (10_state R32). -/
theorem capOf_width {cfg : Config} (h : capWide (capOf cfg) = false) : capWidth (capOf cfg) = 0#16 := by
  unfold capOf at h ⊢
  split at h
  · rename_i q _
    simp only [capOfStatic, capWide_capRecord, capWidth_capRecord] at h ⊢
    simp [h]
  · unfold capOfProbes at h ⊢
    split at h
    · simp at h
    · exact capWidth_capRecord ..

/-! ### Updates of the state that keep the invariant -/

theorem inv_pending {s : State} (h : Inv s) (p : List HostAction) : Inv { s with pending := p } :=
  { h with }

theorem inv_set {s : State} {d : Context} (h : Inv s) (k : Nat) (hd : ContextInv s.cfg d) :
    Inv { s with contexts := s.contexts.set k d } :=
  { h with
    contexts := fun c hc => (List.mem_or_eq_of_mem_set hc).elim (h.contexts c) fun e => e ▸ hd
    cur := h.cur.trans_eq List.length_set.symm }

theorem inv_cur {s : State} (h : Inv s) {k : Nat} (hk : k < s.contexts.length) : Inv { s with cur := k } :=
  { h with cur := hk }

theorem inv_handler {s : State} (h : Inv s) (id : Nat) : Inv { s with handler := .platform id } :=
  { h with handler := Handler.noConfusion }

theorem inv_mem {s : State} {m : Memory} (h : Inv s) (hm : Memory.wf m = true)
    (hb : Memory.below (2 ^ s.cfg.addrBits) m) : Inv { s with mem := m } :=
  { h with mem := hm, memSpace := hb }

/-- A writable byte lies in the address space, since the launch memory does (20_memory R50, R59). -/
theorem writable_lt {cfg : Config} {a : Nat} (hw : cfg.wf = true) (h : Writable cfg a) : a < 2 ^ cfg.addrBits := by
  obtain ⟨-, -, -, hl, -⟩ := config_wf_iff.1 hw
  obtain ⟨r, hr, -, -, ha⟩ := h
  exact ha.trans_le (hl r hr)

theorem inv_store {s : State} (h : Inv s) {a : Nat} (ha : Writable s.cfg a) (b : Byte) :
    Inv { s with mem := Memory.write s.mem a b } :=
  inv_mem h (Memory.wf_write a b h.mem) (Memory.below_write b (writable_lt h.cfg ha) h.memSpace)

theorem inv_hostReset {s : State} (h : Inv s) : Inv (hostReset s) where
  cfg := h.cfg
  mem := h.mem
  memSpace := h.memSpace
  contexts c hc := by
    obtain ⟨_, -, rfl⟩ := List.mem_map.1 hc
    exact contextInv_reset s.cfg
  cur := by simpa using h.cur.pos
  reserved := DetState.noConfusion
  width := DetState.noConfusion
  det := DetState.noConfusion
  checkpoint := rfl
  handler := h.handler

/-! ### Commands keep the invariant -/

/-- A buffer command that completes keeps the invariant: its body keeps memory canonical and inside the address space, and its
context retires as `contextInv_retired` says. -/
theorem inv_retire {i : Instr} {s : State} {c : Context} (h : Inv s) (ha : Admissible i s c) :
    Inv (s.retire (commandBody i s.cfg (s.engine c))) := by
  obtain ⟨hb, -⟩ := config_wf_iff.1 h.cfg
  have hc := h.contexts c (List.mem_of_getElem? ha.current)
  have hd := contextInv_retired (e := s.engine c) hb hc i s.freeCount
  have hset := inv_set h s.cur hd
  exact { inv_mem hset (commandBody_wf i s.cfg (s.engine c) h.mem)
    (commandBody_below i s.cfg (s.engine c) ha.size ha.inRange h.memSpace) with }

theorem inv_publishRes {s : State} (h : Inv s) : Inv (publishRes s) := by
  unfold publishRes
  split
  · exact h
  · rename_i c hc
    exact inv_set h s.cur (contextInv_res (h.contexts c (List.mem_of_getElem? hc)) s.cap)

/-- A guarded probe keeps the invariant of every context: it writes `HA` and `HB` of the current one only. -/
theorem probed_contextInv {s t : State} {cfg : Config} (ht : Probed s t) (hcur : s.cur < s.contexts.length)
    (h : ∀ c ∈ s.contexts, ContextInv cfg c) : ∀ d ∈ t.contexts, ContextInv cfg d := by
  intro d hd
  obtain ⟨k, hk⟩ := List.mem_iff_getElem?.1 hd
  by_cases hks : k = s.cur
  · subst hks
    obtain ⟨l, hl⟩ := ht.current _ (List.getElem?_eq_getElem hcur)
    obtain rfl := Option.some.inj (hk.symm.trans hl)
    exact contextInv_setHash (h _ (List.getElem_mem hcur)) l
  · rw [ht.others k hks] at hk
    exact h d (List.mem_of_getElem? hk)

/-- The detector keeps the invariant: it publishes a record of the right form and leaves no probe under way (44_capability
R178, R180, R185). -/
theorem inv_detect {s : State} (h : Inv s) : Inv (detect s) := by
  obtain ⟨hcap, hdet, hp, hprobed, hstatic⟩ := detect_spec s
  have hcfg : (detect s).cfg = s.cfg := hp.cfg
  have hmem : (detect s).mem = s.mem := hp.mem
  have hctx := probed_contextInv hp h.cur h.contexts
  exact {
    cfg := hcfg ▸ h.cfg
    mem := hmem ▸ h.mem
    memSpace := by rw [hmem, hcfg]; exact h.memSpace
    contexts := hcfg ▸ hctx
    cur := hp.cur.trans_lt (h.cur.trans_eq hp.nctx.symm)
    reserved := fun _ => hcap ▸ capOf_reserved s.cfg
    width := fun _ hw => hcap ▸ capOf_width (hcap ▸ hw)
    det := hdet ▸ DetState.noConfusion
    checkpoint := by
      by_cases hq : s.cfg.plat.static = none
      · exact hprobed hq
      · exact (hstatic hq).trans h.checkpoint
    handler := fun hh => h.handler (hp.handler.symm.trans hh) }

theorem inv_exec {i : Instr} {s t : State} (h : Inv s) (he : exec i s = .next t) : Inv t := by
  obtain ⟨c, ha, rfl⟩ | ⟨-, -, rfl⟩ | ⟨-, rfl⟩ := exec_next he
  · exact inv_retire h ha
  · exact inv_publishRes (inv_detect h)
  · exact inv_publishRes h

/-! ### Steps keep the invariant -/

/-- Every host action that happens keeps the invariant. -/
theorem inv_perform {s t : State} {rest : List HostAction} {a : HostAction} (h : Inv s)
    (hp : perform s rest a = .next t) : Inv t := by
  obtain ⟨k, c, r, v, -, hc, hv, rfl⟩ | ⟨k, c, w, n, i, -, hc, -, he⟩ | ⟨x, -, -, rfl⟩ | ⟨x, b, -, hx, rfl⟩ |
    ⟨id, -, rfl⟩ | ⟨-, rfl⟩ := perform_next hp
  · exact inv_set h k (contextInv_setArg (h.contexts c (List.mem_of_getElem? hc)) hv r)
  · obtain ⟨hk, -⟩ := List.getElem?_eq_some_iff.1 hc
    exact inv_exec (inv_set (inv_cur h hk) k (contextInv_cmd (h.contexts c (List.mem_of_getElem? hc)) w)) he
  · exact h
  · exact inv_store h (backsWrite_iff.1 hx) b
  · exact inv_handler h id
  · exact inv_hostReset h

/-- Settles O56: a step is nothing or one host action, and each keeps the invariant. -/
theorem stepKeepsInvariant : Obligations.StepKeepsInvariant := by
  intro s t h hst
  obtain ⟨-, rfl⟩ | ⟨a, rest, -, hp⟩ := step_next hst
  · exact h
  · exact inv_perform (inv_pending h rest) hp

/-! ### Reset -/

/-- The seeds of the two hash lane-pairs differ: a permutation has them at two different places (41_hash R132). -/
theorem initialConstants_seeds : initialConstants.hInitA ≠ initialConstants.hInitB := by
  intro h
  have hpair : (Vector.replicate 32 0#8 : Pair) = Vector.replicate 32 1#8 := Config.openSeeds.injective h
  exact absurd (congrArg (fun p : Pair => p[0]) hpair) (by decide)

theorem initialConfig_wf : initialConfig.wf = true :=
  config_wf_iff.2 ⟨by decide, by decide, by decide, by simp [initialConfig], initialConstants_seeds⟩

/-- The contexts after reset. -/
theorem mem_reset_contexts {c : Context} (h : c ∈ State.reset.contexts) : c = Context.reset :=
  (List.mem_replicate.1 h).2

/-- Settles O55: the configuration is `initialConfig_wf`, each context `contextInv_reset`; memory is empty. -/
theorem resetMeetsInvariant : Obligations.ResetMeetsInvariant where
  cfg := initialConfig_wf
  mem := rfl
  memSpace _ h := absurd h List.not_mem_nil
  contexts c hc := mem_reset_contexts hc ▸ contextInv_reset _
  cur := by simp [State.reset]
  reserved := DetState.noConfusion
  width := DetState.noConfusion
  det := DetState.noConfusion
  checkpoint := rfl
  handler := Handler.noConfusion

/-- Byte `i` of the default `KAT_INPUT` (44_capability R181). -/
theorem katInputDefault_get (i : Fin 64) :
    katInputDefault[i] = if i.val % 8 = 0 then BitVec.ofNat 8 (i.val / 8 + 1) else 0#8 := by
  simp [katInputDefault]

/-- Settles O54: every context is `Context.reset`, and the rest are values `State.reset` names. -/
theorem resetState : Obligations.ResetState := by
  refine ⟨rfl, rfl, by simp [State.reset], fun c hc => ?_, rfl, rfl, rfl, katInputDefault_get⟩
  rw [mem_reset_contexts hc]
  exact ⟨rfl, fun r => by cases r <;> rfl⟩

end Sys2Proof.Machine
end

section
/-! ## What a buffer command writes depends on what it reads -/

namespace Sys2Proof.Machine

open Sys2Proof.Safety

/-! ### Memories that agree at an address -/

/-- A byte inside a stored block, by its address (20_memory R55). -/
theorem Memory.read_writeBlock_at {m : Memory} {a x : Nat} {v : Block} (hm : Memory.wf m = true) (h : a ≤ x)
    (h' : x < a + 64) : Memory.read (Memory.writeBlock m a v) x = v[x - a] := by
  have e := Memory.read_writeBlock_inside (a := a) (v := v) hm ⟨x - a, by omega⟩
  rwa [show a + (x - a) = x by omega] at e

/-- After the same block store two memories agree on the block, and wherever they did before. -/
theorem Memory.read_writeBlock_congr {m n : Memory} {a x : Nat} (v : Block) (hm : Memory.wf m = true)
    (hn : Memory.wf n = true) (h : (a ≤ x ∧ x < a + 64) ∨ Memory.read n x = Memory.read m x) :
    Memory.read (Memory.writeBlock n a v) x = Memory.read (Memory.writeBlock m a v) x := by
  by_cases hx : a ≤ x ∧ x < a + 64
  · rw [Memory.read_writeBlock_at hm hx.1 hx.2, Memory.read_writeBlock_at hn hx.1 hx.2]
  · rw [Memory.read_writeBlock_outside (by omega), Memory.read_writeBlock_outside (by omega)]
    exact h.resolve_left hx

/-- A byte of a filled buffer: byte `x` lies in chunk `(x - base) / 64` (42_generator R147, R152). -/
theorem fillLoop_read_inside (next : LaneState → LaneState) (t : Perm64) (n : Nat) (e : Engine) {x : Nat}
    (hm : Memory.wf e.mem = true) (h : e.chunkAddr ≤ x) (h' : x < e.chunkAddr + 64 * n) :
    Memory.read (fillLoop next t n e).mem x =
      (scatter t (next^[(x - e.chunkAddr) / 64 + 1] e.ctx.genLanes))[(x - e.chunkAddr) % 64] := by
  have hk := fillLoop_chunk next t n e hm (k := (x - e.chunkAddr) / 64) (by omega)
  simp only [← hk, Memory.readBlock_get]
  congr 1
  omega

/-- Filling from equal lane states at equal addresses gives memories that agree on the buffer, and wherever they did before. -/
theorem fillLoop_read_congr (next : LaneState → LaneState) (t : Perm64) (n : Nat) {e f : Engine} {x : Nat}
    (he : Memory.wf e.mem = true) (hf : Memory.wf f.mem = true) (hc : f.chunkAddr = e.chunkAddr)
    (hg : f.ctx.genLanes = e.ctx.genLanes)
    (h : (e.chunkAddr ≤ x ∧ x < e.chunkAddr + 64 * n) ∨ Memory.read f.mem x = Memory.read e.mem x) :
    Memory.read (fillLoop next t n f).mem x = Memory.read (fillLoop next t n e).mem x := by
  by_cases hx : e.chunkAddr ≤ x ∧ x < e.chunkAddr + 64 * n
  · rw [fillLoop_read_inside next t n e he hx.1 hx.2, fillLoop_read_inside next t n f hf (hc ▸ hx.1) (hc ▸ hx.2)]
    simp only [hc, hg]
  · rw [fillLoop_read_outside _ _ _ _ (by omega), fillLoop_read_outside _ _ _ _ (by omega)]
    exact h.resolve_left hx

/-! ### Engines a command cannot tell apart -/

/-- What a command may depend on is the same in both engines: the operand registers and the bytes it reads (20_memory R61). -/
structure SameInput (i : Instr) (e f : Engine) : Prop where
  wf : Memory.wf e.mem = true
  wf' : Memory.wf f.mem = true
  args : ∀ r, f.ctx.arg r = e.ctx.arg r
  size : e.ctx.argLen % 64 = 0
  bytes : ∀ x ∈ readSpans i e.ctx, ∀ a, InSpan a x → Memory.read f.mem a = Memory.read e.mem a

/-- `GenLoad` reads the same block. -/
theorem SameInput.stateBlock {i : Instr} {e f : Engine} (h : SameInput i e f)
    (hs : e.ctx.stateSpan ∈ readSpans i e.ctx) :
    Memory.readBlock f.mem f.ctx.argState = Memory.readBlock e.mem e.ctx.argState := by
  have ha : f.ctx.argState = e.ctx.argState := h.args .state
  rw [ha]
  exact Memory.readBlock_congr fun k hk => h.bytes _ hs _ ⟨Nat.le_add_right .., Nat.add_lt_add_left hk _⟩

theorem SameInput.chunks {i : Instr} {e f : Engine} (h : SameInput i e f) : f.ctx.chunks = e.ctx.chunks :=
  congrArg (· / 64) (h.args .len)

/-- The hash absorbs the same blocks. -/
theorem SameInput.bufBlocks {i : Instr} {e f : Engine} (h : SameInput i e f)
    (hb : e.ctx.bufSpan ∈ readSpans i e.ctx) :
    Memory.blocks f.mem f.ctx.argBuf f.ctx.chunks = Memory.blocks e.mem e.ctx.argBuf e.ctx.chunks := by
  have ha : f.ctx.argBuf = e.ctx.argBuf := h.args .buf
  rw [ha, h.chunks]
  refine Memory.blocks_congr fun k hk => h.bytes _ hb _ ⟨Nat.le_add_right .., Nat.add_lt_add_left ?_ _⟩
  rwa [Context.chunks_size h.size] at hk

/-- The fill of both generators writes the same bytes. -/
theorem SameInput.read_fillLoop {i : Instr} {e f : Engine} (h : SameInput i e f)
    (hs : e.ctx.stateSpan ∈ readSpans i e.ctx) (next : LaneState → LaneState) (t : Perm64) {a : Nat}
    (ha : InSpan a e.ctx.bufSpan ∨ Memory.read f.mem a = Memory.read e.mem a) :
    Memory.read (fillLoop next t f.ctx.chunks (loaded t f)).mem a =
      Memory.read (fillLoop next t e.ctx.chunks (loaded t e)).mem a := by
  rw [h.chunks]
  refine fillLoop_read_congr next t _ h.wf h.wf' (h.args .buf) ?_ (ha.imp_left fun hb => ?_)
  · rw [loaded_gen, loaded_gen, h.stateBlock hs]
  · rwa [loaded_chunkAddr, Context.chunks_size h.size]

/-- FILL1 writes the same bytes. -/
theorem SameInput.read_fill1Command {i : Instr} {e f : Engine} (h : SameInput i e f)
    (hs : e.ctx.stateSpan ∈ readSpans i e.ctx) (cfg : Config) {a : Nat}
    (ha : InSpan a e.ctx.stateSpan ∨ InSpan a e.ctx.bufSpan ∨ Memory.read f.mem a = Memory.read e.mem a) :
    Memory.read (fill1Command cfg f).mem a = Memory.read (fill1Command cfg e).mem a := by
  have hst : f.ctx.argState = e.ctx.argState := h.args .state
  rw [fill1Command_mem, fill1Command_mem, h.stateBlock hs, h.chunks, hst]
  refine Memory.read_writeBlock_congr _ (fillLoop_wf _ _ _ _ h.wf) (fillLoop_wf _ _ _ _ h.wf')
    (ha.imp_right fun ha => ?_)
  simpa only [h.chunks] using h.read_fillLoop hs (gen1Step cfg) cfg.tbl1 ha

/-- Every byte a command writes depends on its input only. -/
theorem SameInput.read_commandBody {i : Instr} {e f : Engine} (h : SameInput i e f) (cfg : Config) {x : Span} {a : Nat}
    (hx : x ∈ writeSpans i e.ctx) (ha : InSpan a x) :
    Memory.read (commandBody i cfg f).mem a = Memory.read (commandBody i cfg e).mem a := by
  have hdig : f.ctx.argDigest = e.ctx.argDigest := h.args .digest
  cases i <;> simp only [writeSpans, List.mem_cons, List.not_mem_nil, or_false] at hx
  case hash =>
    subst hx
    simp only [commandBody, hashCommand_mem]
    rw [h.bufBlocks (by simp [readSpans]), hdig]
    exact Memory.read_writeBlock_congr _ h.wf h.wf' (.inl ha)
  case fill1 =>
    refine h.read_fill1Command (by simp [readSpans]) cfg ?_
    obtain rfl | rfl := hx
    · exact .inr (.inl ha)
    · exact .inl ha
  case fill4 =>
    subst hx
    exact h.read_fillLoop (by simp [readSpans]) (gen4Step cfg) cfg.tbl4 (.inl ha)
  case hashFill =>
    have hf := h.read_fill1Command (by simp [readSpans]) cfg (a := a)
    simp only [commandBody, hashFillCommand_mem]
    rw [h.bufBlocks (by simp [readSpans]), hdig]
    refine Memory.read_writeBlock_congr _ (commandBody_wf .fill1 cfg e h.wf) (commandBody_wf .fill1 cfg f h.wf') ?_
    obtain rfl | rfl | rfl := hx
    · exact .inr (hf (.inr (.inl ha)))
    · exact .inr (hf (.inl ha))
    · exact .inl ha

/-- Settles O33: both commands complete with their bodies' memory, and the bodies start from the same input. -/
theorem resultsDependOnFootprint : Obligations.ResultsDependOnFootprint := by
  intro i s s' c c' hb hadm hadm' hwf hwf' hcfg hargs hbytes
  refine ⟨_, _, exec_admissible hb hadm, exec_admissible hb hadm', fun x hx a ha => ?_⟩
  have hin : SameInput i (s.engine c) (s'.engine c') := ⟨hwf, hwf', hargs, hadm.size, hbytes⟩
  rw [State.retire_mem, State.retire_mem, hcfg]
  exact hin.read_commandBody s.cfg hx ha

end Sys2Proof.Machine
end

section
/-! ## Memory accesses of the host -/

namespace Sys2Proof.Machine

open Sys2Proof.Safety

/-- Settles O51: the three laws of a block store in one. -/
theorem blockStoreThenLoad : Obligations.BlockStoreThenLoad := by
  intro m a v hm
  exact ⟨Memory.readBlock_writeBlock hm, fun x hx => Memory.read_writeBlock_outside hx, Memory.wf_writeBlock a v hm⟩

/-- A store to a writable byte completes (20_memory R63). -/
theorem hostStore_writable {s : State} {a : Nat} (h : Writable s.cfg a) (b : Byte) :
    hostStore s a b = .next { s with mem := Memory.write s.mem a b } :=
  if_pos (backsWrite_iff.2 h)

/-- A load of a readable byte completes and has no side effect (20_memory R54). -/
theorem hostLoad_readable {s : State} {a : Nat} (h : Readable s.cfg a) : hostLoad s a = .next s :=
  if_pos (backsRead_iff.2 h)

/-- Settles O52: the step performs the access, and a byte store is read back by `Memory.read_write_self`. -/
theorem hostMemoryAccess : Obligations.HostMemoryAccess := by
  intro s a rest hm
  constructor
  · intro b hp hw
    have hstep := (step_cons hp).trans (hostStore_writable (s := { s with pending := rest }) hw b)
    exact ⟨_, hstep, Memory.read_write_self hm, fun x hx => Memory.read_write_ne hx, rfl⟩
  · intro hp hr
    exact (step_cons hp).trans (hostLoad_readable (s := { s with pending := rest }) hr)

end Sys2Proof.Machine
end

section
/-! ## Which bytes a command accesses, and how often -/

namespace Sys2Proof.Machine

open Sys2Proof.Safety

/-! ### Counting the spans that hold an address -/

/-- The address lies in the span, as a check. -/
def Span.covers (a : Nat) (x : Span) : Bool := decide (x.base ≤ a ∧ a < x.base + x.size)

theorem Span.covers_iff {a : Nat} {x : Span} : x.covers a = true ↔ InSpan a x := decide_eq_true_iff

/-- Of spans that are pairwise disjoint, exactly one holds an address that any of them holds. -/
theorem countP_covers_eq_one {a : Nat} {l : List Span}
    (hd : l.Pairwise fun x y => ∀ a, ¬ (InSpan a x ∧ InSpan a y)) (h : ∃ x ∈ l, InSpan a x) :
    l.countP (Span.covers a) = 1 := by
  induction l with
  | nil => simp at h
  | cons x l ih =>
    rw [List.pairwise_cons] at hd
    by_cases hx : InSpan a x
    · have hl : l.countP (Span.covers a) = 0 :=
        List.countP_eq_zero.2 fun y hy hay => hd.1 y hy a ⟨hx, Span.covers_iff.1 hay⟩
      rw [List.countP_cons_of_pos (Span.covers_iff.2 hx), hl]
    · rw [List.countP_cons_of_neg (mt Span.covers_iff.1 hx)]
      obtain ⟨y, hy, hay⟩ := h
      obtain rfl | hy := List.mem_cons.1 hy
      · exact absurd hay hx
      · exact ih hd.2 ⟨y, hy, hay⟩

/-- No span of the list counts when none holds the address. -/
theorem countP_covers_eq_zero {a : Nat} {l : List Span} (h : ∀ x ∈ l, ¬ InSpan a x) :
    l.countP (Span.covers a) = 0 :=
  List.countP_eq_zero.2 fun x hx hax => h x hx (Span.covers_iff.1 hax)

/-! ### Counting accesses -/

/-- The 64 bytes of an access at `b` (20_memory R60). -/
def blockSpan (b : Nat) : Span := { base := b, size := 64 }

/-- The bytes an access reads. -/
def Access.readSpan? : Access → Option Span
  | .read b => some (blockSpan b)
  | .write _ => none

/-- The bytes an access writes. -/
def Access.writeSpan? : Access → Option Span
  | .read _ => none
  | .write b => some (blockSpan b)

theorem readCount_eq_countP (a : Nat) (l : List Access) :
    readCount a l = (l.filterMap Access.readSpan?).countP (Span.covers a) := by
  induction l with
  | nil => rfl
  | cons x l ih =>
    cases x <;>
      simp [readCount, ih, List.filterMap_cons, Access.readSpan?, blockSpan, Span.covers, List.countP_cons,
        Nat.add_comm]

theorem writeCount_eq_countP (a : Nat) (l : List Access) :
    writeCount a l = (l.filterMap Access.writeSpan?).countP (Span.covers a) := by
  induction l with
  | nil => rfl
  | cons x l ih =>
    cases x <;>
      simp [writeCount, ih, List.filterMap_cons, Access.writeSpan?, blockSpan, Span.covers, List.countP_cons,
        Nat.add_comm]

/-! ### The chunks of a buffer -/

/-- The addresses of the chunks, ascending (20_memory R62). -/
def Context.chunkAddrs (c : Context) : List Nat := (List.range (c.argLen / 64)).map fun k => c.argBuf + 64 * k

/-- `n` chunks from `b` up cover an address as often as the one span of `64 * n` bytes does. -/
theorem countP_covers_chunks (a b n : Nat) :
    ((List.range n).map fun k => blockSpan (b + 64 * k)).countP (Span.covers a) =
      [({ base := b, size := 64 * n } : Span)].countP (Span.covers a) := by
  induction n with
  | zero => simp [Span.covers]
  | succ n ih =>
    rw [List.range_succ, List.map_append, List.countP_append, ih]
    simp only [List.map_cons, List.map_nil, List.countP_singleton, Span.covers, blockSpan, decide_eq_true_eq]
    split_ifs <;> omega

/-- The chunks cover an address as often as the buffer does. -/
theorem Context.countP_covers_chunkAddrs {c : Context} (h : c.argLen % 64 = 0) (a : Nat) :
    (c.chunkAddrs.map blockSpan).countP (Span.covers a) = [c.bufSpan].countP (Span.covers a) := by
  have hb : c.bufSpan = { base := c.argBuf, size := 64 * (c.argLen / 64) } := by
    rw [bufSpan, Nat.mul_div_cancel' (Nat.dvd_of_mod_eq_zero h)]
  rw [chunkAddrs, List.map_map, hb]
  exact countP_covers_chunks a c.argBuf (c.argLen / 64)

/-! ### The accesses of each command -/

theorem accesses_hash (cfg : Config) (m : Memory) (c : Context) :
    accesses .hash cfg m c = c.chunkAddrs.map .read ++ [.write c.argDigest] :=
  (hashCommand_trace cfg _).trans (by simp [Context.chunkAddrs, Context.chunks, Function.comp_def])

theorem accesses_fill1 (cfg : Config) (m : Memory) (c : Context) :
    accesses .fill1 cfg m c = .read c.argState :: (c.chunkAddrs.map .write ++ [.write c.argState]) :=
  (fill1Command_trace cfg _).trans (by simp [Context.chunkAddrs, Context.chunks, Function.comp_def])

theorem accesses_fill4 (cfg : Config) (m : Memory) (c : Context) :
    accesses .fill4 cfg m c = .read c.argState :: c.chunkAddrs.map .write :=
  (fill4Command_trace cfg _).trans (by simp [Context.chunkAddrs, Context.chunks, Function.comp_def])

theorem accesses_hashFill (cfg : Config) (m : Memory) (c : Context) :
    accesses .hashFill cfg m c = .read c.argState ::
      (c.chunkAddrs.flatMap (fun a => [.read a, .write a]) ++ [.write c.argState, .write c.argDigest]) :=
  (hashFillCommand_trace cfg _).trans (by simp [Context.chunkAddrs, Context.chunks, List.flatMap_map])

theorem accesses_capq (cfg : Config) (m : Memory) (c : Context) : accesses .capq cfg m c = [] := rfl

/-! ### The blocks each command accesses -/

/-- The blocks a command reads, in order. -/
def readBlocks (i : Instr) (c : Context) : List Span :=
  match i with
  | .hash => c.chunkAddrs.map blockSpan
  | .fill1 => [c.stateSpan]
  | .fill4 => [c.stateSpan]
  | .hashFill => c.stateSpan :: c.chunkAddrs.map blockSpan
  | .capq => []

/-- The blocks a command writes, in order. -/
def writeBlocks (i : Instr) (c : Context) : List Span :=
  match i with
  | .hash => [c.digestSpan]
  | .fill1 => c.chunkAddrs.map blockSpan ++ [c.stateSpan]
  | .fill4 => c.chunkAddrs.map blockSpan
  | .hashFill => c.chunkAddrs.map blockSpan ++ [c.stateSpan, c.digestSpan]
  | .capq => []

theorem filterMap_readSpan_accesses (i : Instr) (cfg : Config) (m : Memory) (c : Context) :
    (accesses i cfg m c).filterMap Access.readSpan? = readBlocks i c := by
  cases i <;>
    simp [accesses_hash, accesses_fill1, accesses_fill4, accesses_hashFill, accesses_capq, readBlocks,
      Access.readSpan?, Context.stateSpan, blockSpan, List.filterMap_cons, List.filterMap_flatMap, List.map_eq_flatMap]

theorem filterMap_writeSpan_accesses (i : Instr) (cfg : Config) (m : Memory) (c : Context) :
    (accesses i cfg m c).filterMap Access.writeSpan? = writeBlocks i c := by
  cases i <;>
    simp [accesses_hash, accesses_fill1, accesses_fill4, accesses_hashFill, accesses_capq, writeBlocks,
      Access.writeSpan?, Context.stateSpan, Context.digestSpan, blockSpan, List.filterMap_cons, List.filterMap_flatMap,
      List.map_eq_flatMap]

/-- A command reads an address as often as its read regions hold it (20_memory R61). -/
theorem readCount_accesses (i : Instr) {c : Context} (h : c.argLen % 64 = 0) (cfg : Config) (m : Memory) (a : Nat) :
    readCount a (accesses i cfg m c) = (readSpans i c).countP (Span.covers a) := by
  have hc := c.countP_covers_chunkAddrs h a
  rw [readCount_eq_countP, filterMap_readSpan_accesses]
  cases i
  case hash => exact hc
  case fill1 | fill4 | capq => rfl
  case hashFill =>
    rw [readBlocks, List.countP_cons, hc, ← List.countP_cons]
    exact (List.Perm.swap ..).countP_eq _

/-- A command writes an address as often as its written regions hold it (20_memory R61). -/
theorem writeCount_accesses (i : Instr) {c : Context} (h : c.argLen % 64 = 0) (cfg : Config) (m : Memory) (a : Nat) :
    writeCount a (accesses i cfg m c) = (writeSpans i c).countP (Span.covers a) := by
  have hc := c.countP_covers_chunkAddrs h a
  rw [writeCount_eq_countP, filterMap_writeSpan_accesses]
  cases i
  case fill4 => exact hc
  case hash | capq => rfl
  case fill1 | hashFill =>
    rw [writeBlocks, List.countP_append, hc, ← List.countP_append]
    rfl

theorem readSpans_sublist (i : Instr) (c : Context) : (readSpans i c).Sublist (regions i c) := by
  cases i <;> simp [readSpans, regions]

theorem writeSpans_sublist (i : Instr) (c : Context) : (writeSpans i c).Sublist (regions i c) := by
  cases i <;> simp [writeSpans, regions]

/-- Settles O32: the order is that of the commands' traces, and a count of accesses is a count of disjoint regions. -/
theorem eachByteAccessedOnce : Obligations.EachByteAccessedOnce := by
  constructor
  · intro cfg m c
    exact ⟨accesses_hash cfg m c, accesses_fill1 cfg m c, accesses_fill4 cfg m c, accesses_hashFill cfg m c⟩
  · intro i s c _ h a
    rw [readCount_accesses i h.size, writeCount_accesses i h.size]
    exact ⟨countP_covers_eq_one (h.disjoint.sublist (readSpans_sublist i c)), countP_covers_eq_zero,
      countP_covers_eq_one (h.disjoint.sublist (writeSpans_sublist i c)), countP_covers_eq_zero⟩

end Sys2Proof.Machine
end

section
/-! ## Commands beside each other and beside the host -/

namespace Sys2Proof.Machine

open Sys2Proof.Safety

/-! ### Admission depends on the operand registers and the shared state only -/

/-- The regions of a command are a matter of the operand registers. -/
theorem spans_congr (i : Instr) {c d : Context} (h : ∀ r, d.arg r = c.arg r) :
    regions i d = regions i c ∧ readSpans i d = readSpans i c ∧ writeSpans i d = writeSpans i c := by
  have hbuf : d.bufSpan = c.bufSpan := congrArg₂ Span.mk (h .buf) (h .len)
  have hst : d.stateSpan = c.stateSpan := congrArg (Span.mk · 64) (h .state)
  have hdig : d.digestSpan = c.digestSpan := congrArg (Span.mk · 64) (h .digest)
  simp only [regions, readSpans, writeSpans, hbuf, hst, hdig, and_self]

/-- A command stays admissible on a context with the same operand registers, in a state with the same record and
configuration (30_encoding R86). -/
theorem admissible_congr {i : Instr} {s t : State} {c d : Context} (h : Admissible i s c)
    (hd : t.contexts[t.cur]? = some d) (hdet : t.det = s.det) (hcap : t.cap = s.cap) (hcfg : t.cfg = s.cfg)
    (harg : ∀ r, d.arg r = c.arg r) (hwr : ∀ r, d.argWritten r = c.argWritten r) : Admissible i t d := by
  obtain ⟨hreg, hrd, hws⟩ := spans_congr i harg
  exact {
    current := hd
    ready := hdet.trans h.ready
    capable := hcap ▸ h.capable
    written := fun r hr => (hwr r).trans (h.written r hr)
    size := (congrArg (· % 64) (harg .len)).trans h.size
    inRange := by rw [hreg, hcfg]; exact h.inRange
    aligned := by rw [hreg, hcfg]; exact h.aligned
    disjoint := hreg ▸ h.disjoint
    readable := by rw [hrd, hcfg]; exact h.readable
    writable := by rw [hws, hcfg]; exact h.writable }

/-! ### Two commands whose footprints do not conflict -/

theorem noConflict_symm {r1 w1 r2 w2 : List Span} (h : NoConflict r1 w1 r2 w2) : NoConflict r2 w2 r1 w1 := by
  intro a
  obtain ⟨hw1, hr1⟩ := h a
  constructor
  · intro x hx y hy ⟨hax, hay⟩
    obtain hy | hy := List.mem_append.1 hy
    · exact hr1 y hy x hx ⟨hay, hax⟩
    · exact hw1 y hy x (List.mem_append_right _ hx) ⟨hay, hax⟩
  · intro x hx y hy ⟨hax, hay⟩
    exact hw1 y hy x (List.mem_append_left _ hx) ⟨hay, hax⟩

/-- The memory that the body of a command on context `c` leaves. -/
def memAfter (i : Instr) (cfg : Config) (c : Context) (m : Memory) : Memory :=
  (commandBody i cfg { ctx := c, mem := m, trace := [] }).mem

section
variable {i j : Instr} {cfg : Config} {c d : Context} {m : Memory} {x : Span} {a : Nat}

/-- A command changes no byte outside what it writes (20_memory R61). -/
theorem read_memAfter_outside (hc : c.argLen % 64 = 0) (h : ∀ y ∈ writeSpans i c, ¬ InSpan a y) :
    Memory.read (memAfter i cfg c m) a = Memory.read m a :=
  commandBody_outside i cfg _ hc a h

/-- A command writes the same whether or not another that does not conflict has run before it, since it reads the same. -/
theorem read_memAfter_memAfter (hm : Memory.wf m = true) (hc : c.argLen % 64 = 0) (hd : d.argLen % 64 = 0)
    (hn : NoConflict (readSpans i c) (writeSpans i c) (readSpans j d) (writeSpans j d))
    (hx : x ∈ writeSpans i c) (ha : InSpan a x) :
    Memory.read (memAfter i cfg c (memAfter j cfg d m)) a = Memory.read (memAfter i cfg c m) a := by
  have hin : SameInput i { ctx := c, mem := m, trace := [] } { ctx := c, mem := memAfter j cfg d m, trace := [] } :=
    { wf := hm
      wf' := commandBody_wf j cfg _ hm
      args := fun _ => rfl
      size := hc
      bytes := fun y hy b hb => read_memAfter_outside hd fun z hz hbz => (hn b).2 y hy z hz ⟨hb, hbz⟩ }
  exact hin.read_commandBody cfg hx ha

/-- Where a command writes, it does not matter whether a command that does not conflict runs before or after it. -/
theorem read_memAfter_comm_of_written (hm : Memory.wf m = true) (hc : c.argLen % 64 = 0) (hd : d.argLen % 64 = 0)
    (hn : NoConflict (readSpans i c) (writeSpans i c) (readSpans j d) (writeSpans j d))
    (hx : x ∈ writeSpans i c) (ha : InSpan a x) :
    Memory.read (memAfter i cfg c (memAfter j cfg d m)) a = Memory.read (memAfter j cfg d (memAfter i cfg c m)) a :=
  calc Memory.read (memAfter i cfg c (memAfter j cfg d m)) a
    _ = Memory.read (memAfter i cfg c m) a := read_memAfter_memAfter hm hc hd hn hx ha
    _ = Memory.read (memAfter j cfg d (memAfter i cfg c m)) a :=
      (read_memAfter_outside hd fun y hy hay => (hn a).1 x hx y (List.mem_append_right _ hy) ⟨ha, hay⟩).symm

/-- Commands that do not conflict leave the same memory in either order: where one of them writes by
`read_memAfter_comm_of_written`, elsewhere because neither changes a byte. -/
theorem read_memAfter_comm (hm : Memory.wf m = true) (hc : c.argLen % 64 = 0) (hd : d.argLen % 64 = 0)
    (hn : NoConflict (readSpans i c) (writeSpans i c) (readSpans j d) (writeSpans j d)) (a : Nat) :
    Memory.read (memAfter i cfg c (memAfter j cfg d m)) a = Memory.read (memAfter j cfg d (memAfter i cfg c m)) a := by
  by_cases hi : ∃ x ∈ writeSpans i c, InSpan a x
  · obtain ⟨x, hx, ha⟩ := hi
    exact read_memAfter_comm_of_written hm hc hd hn hx ha
  by_cases hj : ∃ y ∈ writeSpans j d, InSpan a y
  · obtain ⟨y, hy, ha⟩ := hj
    exact (read_memAfter_comm_of_written hm hd hc (noConflict_symm hn) hy ha).symm
  push Not at hi hj
  rw [read_memAfter_outside hc hi, read_memAfter_outside hd hj, read_memAfter_outside hd hj,
    read_memAfter_outside hc hi]

end

/-- After an admissible command on context `k` an admissible command on another context still completes, and leaves the
memory of both bodies. -/
theorem exec_after_other {i j : Instr} {s : State} {k l : Nat} {c d : Context} (hi : IsBuffer i) (hj : IsBuffer j)
    (hkl : k ≠ l) (hc : Admissible i { s with cur := k } c) (hd : Admissible j { s with cur := l } d) :
    ∃ t u, exec i { s with cur := k } = .next t ∧ exec j { t with cur := l } = .next u ∧
      u.mem = memAfter j s.cfg d (memAfter i s.cfg c s.mem) := by
  have hd' : Admissible j { State.retire { s with cur := k } (commandBody i s.cfg (s.engine c)) with cur := l } d :=
    admissible_congr hd ((List.getElem?_set_ne hkl).trans hd.current) rfl rfl rfl (fun _ => rfl) fun _ => rfl
  exact ⟨_, _, exec_admissible hi hc, exec_admissible hj hd', rfl⟩

/-- Settles O34: both orders complete by `exec_after_other`, and `read_memAfter_comm` says that their memories agree. -/
theorem disjointContextsCommute : Obligations.DisjointContextsCommute := by
  intro i j s k l c d hi hj hkl hc hd hm hn
  obtain ⟨t, u, ht, hu, humem⟩ := exec_after_other hi hj hkl hc hd
  obtain ⟨t', u', ht', hu', humem'⟩ := exec_after_other hj hi hkl.symm hd hc
  refine ⟨t, u, t', u', ht, hu, ht', hu', fun a => ?_⟩
  rw [humem, humem']
  exact read_memAfter_comm hm hc.size hd.size hn a

/-! ### A host access while a command runs -/

theorem inSpan_byte {a b : Nat} : InSpan b { base := a, size := 1 } ↔ b = a := by
  simp only [InSpan]
  omega

/-- A host store conflicts with a command that reads or writes the byte (20_memory R64). -/
theorem conflict_store_iff {r w : List Span} {a : Nat} :
    conflict r w [] [{ base := a, size := 1 }] = true ↔ ∃ x ∈ r ++ w, InSpan a x := by
  simp [conflict, anyMeet_iff, inSpan_byte, or_and_right, exists_or, or_comm]

/-- A host load conflicts with a command that writes the byte (20_memory R64). -/
theorem conflict_load_iff {r w : List Span} {a : Nat} :
    conflict r w [{ base := a, size := 1 }] [] = true ↔ ∃ x ∈ w, InSpan a x := by
  simp [conflict, anyMeet_iff, inSpan_byte]

theorem decode_encode (i : Instr) : decode (encode i) = .ok i := by
  cases i <;> rfl

section
variable {i : Instr} {s : State} {k : Nat} {c : Context} {x : HostAction} {rest : List HostAction}

/-- A command stays admissible when its context is selected and its word recorded in `CMD` (30_encoding R85). -/
theorem admissible_selected (h : Admissible i { s with cur := k } c) (p : List HostAction) (w : BitVec 32) :
    Admissible i { s with pending := p, cur := k, contexts := s.contexts.set k { c with cmd := w } }
      { c with cmd := w } := by
  have hk : k < s.contexts.length := admissible_lt h
  exact admissible_congr h (List.getElem?_set_self hk) rfl rfl rfl (fun r => by cases r <;> rfl)
    fun r => by cases r <;> rfl

/-- Beside one host action that is refused exactly when it hits the footprint, an admissible command is refused as a race
when it hits and otherwise has its own effect (20_memory R64). -/
theorem step_beside {hit : Bool} (hb : IsBuffer i) (h : Admissible i { s with cur := k } c)
    (hp : s.pending = .cmd k (encode i) 1 :: x :: rest)
    (ho : overlapRefusal k (runsDetector s i) (readSpans i c) (writeSpans i c) { s with pending := x :: rest } [x] =
      if hit then some .race else none) :
    (hit = true → step s = .refused .race) ∧
      (¬ hit = true → ∃ t, step s = .next t ∧
        exec i { s with
          pending := x :: rest, cur := k, contexts := s.contexts.set k { c with cmd := encode i } } = .next t) := by
  have hcur : ({ s with pending := x :: rest } : State).contexts[k]? = some c := h.current
  have hexec := exec_admissible hb (admissible_selected h (x :: rest) (encode i))
  have hstep : step s = issue { s with pending := x :: rest } k (encode i) [x] := step_cons hp
  rw [← State.select_eq hcur] at hexec ⊢
  constructor
  · intro hh
    exact hstep.trans (issue_overlapped hcur (decode_encode i) hexec (ho.trans (if_pos hh)))
  · intro hh
    exact ⟨_, (hstep.trans (issue_alone hcur (decode_encode i) (ho.trans (if_neg hh)))).trans hexec, hexec⟩

end

/-- Settles O48: `step_beside`, at the two accesses of the host. -/
theorem overlappingAccessIsRace : Obligations.OverlappingAccessIsRace := by
  intro i s k c a rest hb h
  constructor
  · intro b hp
    obtain ⟨hrace, hrun⟩ := step_beside hb h hp rfl
    exact ⟨fun hx => hrace (conflict_store_iff.2 hx), fun hx => hrun (mt conflict_store_iff.1 (by simpa using hx))⟩
  · intro hp
    obtain ⟨hrace, hrun⟩ := step_beside hb h hp rfl
    exact ⟨fun hx => hrace (conflict_load_iff.2 hx), fun hx => hrun (mt conflict_load_iff.1 (by simpa using hx))⟩

end Sys2Proof.Machine
end

section
/-! ## Command words, operand writes and admission -/

namespace Sys2Proof

/-! ### Command words -/

/-- A command word has no operand field, so there is nothing to check (30_encoding R81, R88). -/
@[simp] theorem Instr.wf_eq_true (i : Instr) : i.wf = true := by
  cases i <;> rfl

/-- The operation codes that are no command (30_encoding R87). -/
theorem decodeOp_reserved {n : Nat} (h : n = 0 ∨ 6 ≤ n) : decodeOp n = .error .reservedOp := by
  unfold decodeOp
  split
  case h_6 => rfl
  all_goals omega

theorem decode_reservedBits {w : BitVec 32} (h : rsvField w ≠ 0) : decode w = .error .reservedBits := by
  rw [decode, if_pos h]

theorem decode_reservedOp {w : BitVec 32} (hr : rsvField w = 0) (ho : opField w = 0 ∨ 6 ≤ opField w) :
    decode w = .error .reservedOp := by
  rw [decode, if_neg (not_not_intro hr), decodeOp_reserved ho]

theorem decodeTableWord_eq_some {nbits w : Nat} {i : Instr} :
    decodeTableWord nbits w = some i ↔ decode (tableWord nbits w) = .ok i := by
  unfold decodeTableWord
  split <;> rename_i h <;> simp [h]

end Sys2Proof

namespace Sys2Proof.Machine

open Sys2Proof.Safety

/-- Settles O3: `eq_encode_of_decode` in one direction, `decode_encode` in the other. -/
theorem decodeInvertsEncode : Obligations.DecodeInvertsEncode := by
  intro w i
  constructor
  · intro h
    exact ⟨eq_encode_of_decode h, i.wf_eq_true⟩
  · rintro ⟨rfl, -⟩
    exact decode_encode i

/-- Settles O1: `decode_encode` at the five commands, `decode_reservedOp` at the other operation codes. -/
theorem commandWordsDecode : Obligations.CommandWordsDecode := by
  refine ⟨decode_encode .hash, decode_encode .fill1, decode_encode .fill4, decode_encode .hashFill,
    decode_encode .capq, decode_reservedOp rfl (.inl rfl), fun op h6 h15 => ?_⟩
  have hop : (BitVec.ofNat 32 op).toNat = op := by
    rw [BitVec.toNat_ofNat, Nat.mod_eq_of_lt (by omega)]
  refine decode_reservedOp ?_ (.inr ?_)
  · rw [rsvField, hop]
    omega
  · rw [opField, hop]
    omega

/-! ### A step on a command word -/

/-- A step on a write to `CMD` is `issue` of the word, beside the actions of its window (30_encoding R85). -/
theorem step_cmd {s : State} {k window : Nat} {w : BitVec 32} {rest : List HostAction}
    (h : s.pending = .cmd k w window :: rest) :
    step s = issue { s with pending := rest } k w (rest.take window) :=
  step_cons h

/-- A reserved word is refused before anything else is looked at (30_encoding R86, R87). -/
theorem issue_undecodable {s : State} {k : Nat} {c : Context} {w : BitVec 32} {e : DecodeError}
    (hc : s.contexts[k]? = some c) (hd : decode w = .error e) (overlap : List HostAction) :
    issue s k w overlap = .refused (decodeRefusal e) := by
  simp only [issue, hc, hd]

/-- Settles O2: the word does not decode, and `issue_undecodable` names the refusal. -/
theorem reservedWordsRefused : Obligations.ReservedWordsRefused := by
  intro s k c w window rest hp hc
  have refuse {e : DecodeError} (hd : decode w = .error e) : step s = .refused (decodeRefusal e) :=
    (step_cmd hp).trans (issue_undecodable (s := { s with pending := rest }) hc hd _)
  exact ⟨fun hr => refuse (decode_reservedBits hr), fun hr ho => refuse (decode_reservedOp hr ho)⟩

/-- Settles O4: `issue_alone`, with the selected context written out. -/
theorem stepRunsCommand : Obligations.StepRunsCommand := by
  intro s k c w window rest i hp hc hd ho
  rw [step_cmd hp, issue_alone (s := { s with pending := rest }) hc hd ho,
    State.select_eq (s := { s with pending := rest }) hc]

/-- Settles O5: the placed word has no window, so nothing overlaps it and `stepRunsCommand` applies. -/
theorem fetchedWordRuns : Obligations.FetchedWordRuns := by
  intro s c nbits w i hc hd
  exact stepRunsCommand (s.withFetchWord nbits w) s.cur c (tableWord nbits w) 0 s.pending i rfl hc
    (decodeTableWord_eq_some.1 hd) rfl

/-! ### Operand writes -/

theorem Context.setArg_comm (c : Context) {r q : ArgReg} (h : r ≠ q) (v u : Nat) :
    (c.setArg v r).setArg u q = (c.setArg u q).setArg v r := by
  cases r <;> cases q <;> simp [Context.setArg] at h ⊢

/-- Two writes to operand registers of one context are one update of that context. -/
theorem State.setArgOf_setArgOf {s : State} {k : Nat} {c : Context} (hc : s.contexts[k]? = some c) (r q : ArgReg)
    (v u : Nat) :
    (s.setArgOf k r v).setArgOf k q u =
      { s with contexts := s.contexts.set k ((c.setArg v r).setArg u q) } := by
  obtain ⟨hk, -⟩ := List.getElem?_eq_some_iff.1 hc
  rw [State.setArgOf_eq hc, State.setArgOf_eq (List.getElem?_set_self hk), List.set_set]

theorem State.setArgOf_none {s : State} {k : Nat} (h : s.contexts[k]? = none) (r : ArgReg) (v : Nat) :
    s.setArgOf k r v = s := by
  rw [State.setArgOf, h]

/-- Settles O50: both orders are one update of the context, the same by `Context.setArg_comm`; without the context no write
changes anything. -/
theorem operandWriteOrder : Obligations.OperandWriteOrder := by
  intro s k r q v u h
  cases hc : s.contexts[k]? with
  | none => simp only [State.setArgOf_none hc]
  | some c => rw [State.setArgOf_setArgOf hc, State.setArgOf_setArgOf hc, c.setArg_comm h]

/-! ### The admission checks, as the spec says them (30_encoding R86, items 4 to 8) -/

section
variable {i : Instr} {s : State} {c : Context} {cfg : Config}

theorem someUnwritten_iff : someUnwritten i c = true ↔ ∃ r ∈ operands i, c.argWritten r = false := by
  simp [someUnwritten]

theorem any_outOfRange_iff {l : List Span} :
    l.any (outOfRange cfg) = true ↔ ∃ x ∈ l, 2 ^ cfg.addrBits < x.base + x.size := by
  simp [outOfRange]

theorem any_notAligned_iff {l : List Span} :
    l.any (notAligned cfg) = true ↔ ∃ x ∈ l, x.base % cfg.bufAlign ≠ 0 := by
  simp [notAligned]

theorem overlapping_iff {l : List Span} :
    overlapping l = true ↔ ¬ l.Pairwise fun x y => ∀ a, ¬ (InSpan a x ∧ InSpan a y) := by
  rw [← overlapping_false_iff, Bool.not_eq_false]

/-- Some byte of some span fails a check of every byte. -/
theorem not_all_spans_iff {l : List Span} {p : Nat → Bool} :
    (!l.all fun x => x.all p) = true ↔ ∃ x ∈ l, ∃ a, InSpan a x ∧ ¬ p a = true := by
  simp only [Bool.not_eq_true', ← Bool.not_eq_true, List.all_eq_true, Span.all_iff, not_forall, exists_prop]

theorem someUnbacked_iff : someUnbacked cfg i c = true ↔
    (∃ x ∈ readSpans i c, ∃ a, InSpan a x ∧ ¬ Readable cfg a) ∨
      ∃ x ∈ writeSpans i c, ∃ a, InSpan a x ∧ ¬ Writable cfg a := by
  simp only [someUnbacked, Bool.or_eq_true, not_all_spans_iff, backsRead_iff, backsWrite_iff]

/-! ### The order of the refusals -/

/-- A buffer command that fails admission is refused with the reason admission names. -/
theorem exec_refused (hb : IsBuffer i) {r : Refusal} (hc : s.contexts[s.cur]? = some c)
    (h : admission i s c = some r) : exec i s = .refused r := by
  rw [exec_buffer hb, runBuffer_refused hc h]

/-- The first check of the list that fails names the refusal of the command. -/
def RefusedBy (checks : List (Bool × Refusal)) (i : Instr) (s : State) : Prop :=
  ∀ r, firstRefusal checks = some r → exec i s = .refused r

theorem refusedBy_admission (hb : IsBuffer i) (hc : s.contexts[s.cur]? = some c) :
    RefusedBy [
      (s.det != .ready, .noCapabilityRecord),
      (!capAes s.cap, .notCapable),
      (someUnwritten i c, .unwrittenOperand),
      (c.argLen % 64 != 0, .sizeNotMultipleOf64),
      ((regions i c).any (outOfRange s.cfg), .addressRange),
      ((regions i c).any (notAligned s.cfg), .misaligned),
      (overlapping (regions i c), .overlap),
      (someUnbacked s.cfg i c, .notBacked)] i s :=
  fun _ h => exec_refused hb hc h

variable {b : Bool} {r : Refusal} {checks : List (Bool × Refusal)} {P Q R : Prop}

/-- A check that fails where those before it pass names the refusal. -/
theorem RefusedBy.failed (h : RefusedBy ((b, r) :: checks) i s) (hP : b = true ↔ P) (hp : P) :
    exec i s = .refused r :=
  h r (by rw [firstRefusal, if_pos (hP.2 hp)])

/-- Where a check passes, those after it name the refusal. -/
theorem RefusedBy.passed (h : RefusedBy ((b, r) :: checks) i s) (hP : b = true ↔ P) (hp : ¬ P) :
    RefusedBy checks i s :=
  fun q hq => h q (by rwa [firstRefusal, if_neg (mt hP.1 hp)])

/-- One level of the nested statement of the order: in the states `P` the check fails, in the states `Q` it passes. -/
theorem RefusedBy.split (h : RefusedBy ((b, r) :: checks) i s) (hP : b = true ↔ P) (hQ : Q → ¬ P)
    (hrest : RefusedBy checks i s → R) : (P → exec i s = .refused r) ∧ (Q → R) :=
  ⟨h.failed hP, fun hq => hrest (h.passed hP (hQ hq))⟩

end

/-- Settles O47: the nested clauses follow the list of admission's checks, one `RefusedBy.split` for each check. -/
theorem refusalOrder : Obligations.RefusalOrder := by
  intro i s c hb hc
  refine (refusedBy_admission hb hc).split bne_iff_ne not_not_intro fun h => ?capable
  refine h.split (by simp [capAes]) (by simp) fun h => ?written
  refine h.split someUnwritten_iff (by simp +contextual) fun h => ?size
  refine h.split bne_iff_ne not_not_intro fun h => ?inRange
  refine h.split any_outOfRange_iff (by simp +contextual) fun h => ?aligned
  refine h.split any_notAligned_iff (by simp +contextual) fun h => ?disjoint
  exact h.split overlapping_iff not_not_intro fun h => h.failed someUnbacked_iff

/-- Settles O46: `exec_buffer_next` in one direction, `exec_admissible` in the other. -/
theorem runsExactlyWhenAdmissible : Obligations.RunsExactlyWhenAdmissible := by
  intro i s hb
  constructor
  · rintro ⟨t, h⟩
    obtain ⟨c, hc, -⟩ := exec_buffer_next hb h
    exact ⟨c, hc⟩
  · rintro ⟨c, hc⟩
    exact ⟨_, exec_admissible hb hc⟩

end Sys2Proof.Machine
end

section
/-! ## The interleave tables -/

namespace Sys2Proof.Machine

theorem fwd_bijective (t : Perm64) : Function.Bijective fun p : Fin 64 => t.fwd[p] :=
  Function.bijective_iff_has_inverse.2 ⟨fun i => t.inv[i], t.inv_fwd, t.fwd_inv⟩

/-- `SCATTER` in the direction of R103: the table says where a physical byte goes. -/
theorem scatter_fwd (t : Perm64) (l : LaneState) {p : Nat} (h : p < 64) :
    (scatter t l)[t.fwd[p]] = (physical l)[p] := by
  simp [scatter_get, inv_fwd_val t h]

theorem scatter_fwd_a (t : Perm64) (l : LaneState) {p : Nat} (h : p < 32) : (scatter t l)[t.fwd[p]] = l.a[p] := by
  rw [scatter_fwd t l (by omega), physical_get l (by omega), dif_pos h]

theorem scatter_fwd_b (t : Perm64) (l : LaneState) {p : Nat} (h : p < 32) :
    (scatter t l)[t.fwd[32 + p]] = l.b[p] := by
  rw [scatter_fwd t l (by omega), physical_get l (by omega), dif_neg (by omega)]
  simp

/-- The physical string of a gathered block (40_tables R102). -/
theorem physical_gather (t : Perm64) (b : Block) {p : Nat} (h : p < 64) :
    (physical (gather t b))[p] = b[t.fwd[p]] := by
  rw [physical_get _ h]
  split
  case isTrue hp => exact gather_a_get t b hp
  case isFalse hp =>
    simp [gather_b_get t b (show p - 32 < 32 by omega), show 32 + (p - 32) = p by omega]

theorem scatter_gather (t : Perm64) (b : Block) : scatter t (gather t b) = b := by
  ext i hi
  simp [scatter_get, physical_gather, fwd_inv_val t hi]

theorem gather_scatter (t : Perm64) (l : LaneState) : gather t (scatter t l) = l := by
  have ha : (gather t (scatter t l)).a = l.a := by
    ext p hp
    rw [gather_a_get t _ hp, scatter_fwd_a t l hp]
  have hb : (gather t (scatter t l)).b = l.b := by
    ext p hp
    rw [gather_b_get t _ hp, scatter_fwd_b t l hp]
  exact congrArg₂ LaneState.mk ha hb

/-- Settles O7: a table and its inverse cancel, byte by byte, in either order. -/
theorem gatherScatterRoundTrip : Obligations.GatherScatterRoundTrip :=
  fun t => ⟨fwd_bijective t, scatter_gather t, gather_scatter t⟩

/-- Settles O8: `gather_a_get` and `gather_b_get` for GATHER, `scatter_fwd_a` and `scatter_fwd_b` for SCATTER. -/
theorem gatherScatterPlaceBytes : Obligations.GatherScatterPlaceBytes :=
  fun t p =>
    ⟨fun b => ⟨gather_a_get t b p.isLt, gather_b_get t b p.isLt⟩,
      fun l => ⟨scatter_fwd_a t l p.isLt, scatter_fwd_b t l p.isLt⟩⟩

/-- The entries of the default of `TBL1` (40_tables R104). -/
theorem tbl1Default_fwd : ∀ p : Fin 64,
    (tbl1Default.fwd[p]).val = 16 * ([0, 2, 1, 3].getD (p.val / 16) 0) + p.val % 16 := by
  decide

/-- Settles O9: the reset configuration names the default, and `tbl1Default_fwd` gives its entries. -/
theorem defaultTableEntries : Obligations.DefaultTableEntries :=
  ⟨rfl, tbl1Default_fwd⟩

end Sys2Proof.Machine
end

section
/-! ## The AES round steps -/

namespace Sys2Proof.Machine

/-! ### The substitution tables -/

theorem invSbox_sbox : ∀ a : Byte, invSbox (sbox a) = a := by
  decide +kernel

theorem sbox_invSbox : ∀ a : Byte, sbox (invSbox a) = a := by
  decide +kernel

/-- The affine map of the AES substitution (40_tables R109). -/
def sboxAffine (b : Byte) : Byte :=
  b ^^^ b.rotateLeft 1 ^^^ b.rotateLeft 2 ^^^ b.rotateLeft 3 ^^^ b.rotateLeft 4 ^^^ 0x63#8

/-- The byte whose affine image is `y`: the inverse of `sboxAffine`. -/
def invSboxAffine (y : Byte) : Byte := y.rotateLeft 1 ^^^ y.rotateLeft 3 ^^^ y.rotateLeft 6 ^^^ 0x05#8

theorem sboxAffine_invSboxAffine : ∀ y : Byte, sboxAffine (invSboxAffine y) = y := by
  decide +kernel

/-- The inverse of a byte in GF(2^8), and 0 for 0, read back from `SBOX` (40_tables R109). -/
def fieldInverse (a : Byte) : Byte := invSboxAffine (sbox a)

theorem fieldInverse_zero : fieldInverse 0#8 = 0#8 := by
  decide +kernel

theorem gmul_fieldInverse : ∀ a : Byte, a ≠ 0#8 → gmul a (fieldInverse a) = 1#8 := by
  decide +kernel

theorem sbox_eq_sboxAffine (a : Byte) : sbox a = sboxAffine (fieldInverse a) :=
  (sboxAffine_invSboxAffine (sbox a)).symm

/-- Settles O10: the inverses by `invSbox_sbox` and `sbox_invSbox`; the field inverse is `fieldInverse`. -/
theorem substitutionTables : Obligations.SubstitutionTables :=
  ⟨fun a => ⟨invSbox_sbox a, sbox_invSbox a⟩, fun a =>
    ⟨fieldInverse a, fun h => by rw [h, fieldInverse_zero], gmul_fieldInverse a, sbox_eq_sboxAffine a⟩⟩

/-! ### Lanes as arrays of rows and columns -/

/-- The byte of a lane in row `r` and column `c`, both taken mod 4 (40_tables R107). -/
def stateByte (s : Lane) (r c : Nat) : Byte := s[r % 4 + 4 * (c % 4)]

theorem getElem_eq_stateByte (s : Lane) {r c : Nat} (hr : r < 4) (hc : c < 4) : s[r + 4 * c] = stateByte s r c := by
  simp [stateByte, Nat.mod_eq_of_lt hr, Nat.mod_eq_of_lt hc]

theorem stateByte_congr (s : Lane) {r c r' c' : Nat} (hr : r % 4 = r' % 4) (hc : c % 4 = c' % 4) :
    stateByte s r c = stateByte s r' c' := by
  simp [stateByte, hr, hc]

theorem getElem_column_eq_stateByte (s : Lane) {r c : Nat} (hr : r < 4) (hc : c < 4) :
    s[4 * c + r] = stateByte s r c := by
  simp [stateByte, Nat.mod_eq_of_lt hr, Nat.mod_eq_of_lt hc, Nat.add_comm r]

theorem lane_ext {s t : Lane} (h : ∀ r c, stateByte s r c = stateByte t r c) : s = t :=
  Vector.ext fun i hi => by
    have hb := h (i % 4) (i / 4)
    simpa only [stateByte, Nat.mod_mod, show i % 4 + 4 * (i / 4 % 4) = i by omega] using hb

@[simp] theorem stateByte_ofFn (f : Fin 16 → Byte) (r c : Nat) :
    stateByte (Vector.ofFn f) r c = f ⟨r % 4 + 4 * (c % 4), by omega⟩ := by
  simp [stateByte]

@[simp] theorem stateByte_map (f : Byte → Byte) (s : Lane) (r c : Nat) :
    stateByte (s.map f) r c = f (stateByte s r c) := by
  simp [stateByte]

/-! ### ShiftRows -/

@[simp] theorem stateByte_shiftRows (s : Lane) (r c : Nat) :
    stateByte (shiftRows s) r c = stateByte s r (c + r) := by
  simp only [shiftRows, stateByte_ofFn]
  exact getElem_congr_idx (by omega)

/-- `c + 3 * r` is `c - r` mod 4 with no subtraction. -/
@[simp] theorem stateByte_invShiftRows (s : Lane) (r c : Nat) :
    stateByte (invShiftRows s) r c = stateByte s r (c + 3 * r) := by
  simp only [invShiftRows, stateByte_ofFn]
  exact getElem_congr_idx (by omega)

theorem invShiftRows_shiftRows (s : Lane) : invShiftRows (shiftRows s) = s :=
  lane_ext fun r c => by
    simp only [stateByte_shiftRows, stateByte_invShiftRows]
    exact stateByte_congr s rfl (by omega)

theorem shiftRows_invShiftRows (s : Lane) : shiftRows (invShiftRows s) = s :=
  lane_ext fun r c => by
    simp only [stateByte_shiftRows, stateByte_invShiftRows]
    exact stateByte_congr s rfl (by omega)

/-- A rotation commutes with everything that acts on each byte alone. -/
theorem shiftRows_map (f : Byte → Byte) (s : Lane) : shiftRows (s.map f) = (shiftRows s).map f :=
  lane_ext fun r c => by simp

theorem invShiftRows_map (f : Byte → Byte) (s : Lane) : invShiftRows (s.map f) = (invShiftRows s).map f :=
  lane_ext fun r c => by simp

theorem shiftRows_get (s : Lane) (r c : Fin 4) :
    (shiftRows s)[r.val + 4 * c.val] = s[r.val + 4 * ((c.val + r.val) % 4)] := by
  rw [getElem_eq_stateByte _ r.isLt c.isLt, getElem_eq_stateByte _ r.isLt (by omega), stateByte_shiftRows]
  exact stateByte_congr s rfl (by omega)

theorem invShiftRows_get (s : Lane) (r c : Fin 4) :
    (invShiftRows s)[r.val + 4 * c.val] = s[r.val + 4 * ((c.val + 4 - r.val) % 4)] := by
  rw [getElem_eq_stateByte _ r.isLt c.isLt, getElem_eq_stateByte _ r.isLt (by omega), stateByte_invShiftRows]
  exact stateByte_congr s rfl (by omega)

/-- Settles O11: the index formulas, the cancellation and the commutation, from what each rotation does to a byte. -/
theorem rowRotationsInvert : Obligations.RowRotationsInvert :=
  fun s => ⟨fun r c => ⟨shiftRows_get s r c, invShiftRows_get s r c⟩,
    invShiftRows_shiftRows s, shiftRows_invShiftRows s,
    shiftRows_map sbox s, shiftRows_map invSbox s, invShiftRows_map sbox s, invShiftRows_map invSbox s⟩

/-! ### MixColumns -/

theorem xtime_xor (a b : Byte) : xtime (a ^^^ b) = xtime a ^^^ xtime b := by
  have hbit : (if a.getLsbD 7 ^^ b.getLsbD 7 then 0x1b#8 else 0#8) =
      (if a.getLsbD 7 then 0x1b#8 else 0#8) ^^^ (if b.getLsbD 7 then 0x1b#8 else 0#8) := by
    cases a.getLsbD 7 <;> cases b.getLsbD 7 <;> rfl
  simp only [xtime, BitVec.shiftLeft_xor_distrib, BitVec.getLsbD_xor, hbit]
  ac_rfl

theorem gmulBits_xor (n : Nat) (a b m : Byte) : gmulBits n (a ^^^ b) m = gmulBits n a m ^^^ gmulBits n b m := by
  induction n generalizing a b m with
  | zero => simp [gmulBits]
  | succ n ih =>
    simp only [gmulBits, xtime_xor, ih]
    split
    · ac_rfl
    · simp

/-- Multiplication by a constant is linear over `xor` (40_tables R108). -/
theorem gmul_xor (a b m : Byte) : gmul (a ^^^ b) m = gmul a m ^^^ gmul b m :=
  gmulBits_xor 8 a b m

theorem stateByte_mixColumnsBy (m0 m1 m2 m3 : Byte) (s : Lane) (r c : Nat) :
    stateByte (mixColumnsBy m0 m1 m2 m3 s) r c =
      gmul (stateByte s r c) m0 ^^^ gmul (stateByte s (r + 1) c) m1 ^^^
        gmul (stateByte s (r + 2) c) m2 ^^^ gmul (stateByte s (r + 3) c) m3 := by
  have hbelow (j : Nat) : s[4 * ((r % 4 + 4 * (c % 4)) / 4) + (r % 4 + 4 * (c % 4) + j) % 4]'(by omega) =
      stateByte s (r + j) c := getElem_congr_idx (by omega)
  simp only [mixColumnsBy, stateByte_ofFn, hbelow]
  rfl

/-- A sum of four products, each by two constants: what one byte of a column contributes to a byte mixed twice. -/
def mixedTwice (m0 m1 m2 m3 n0 n1 n2 n3 x : Byte) : Byte :=
  gmul (gmul x m0) n0 ^^^ gmul (gmul x m1) n1 ^^^ gmul (gmul x m2) n2 ^^^ gmul (gmul x m3) n3

/-- Mixing by `m`, then by `n`, changes nothing: the byte at row offset 0 contributes itself, the other three bytes of the
column nothing. -/
structure MixersCancel (m0 m1 m2 m3 n0 n1 n2 n3 : Byte) : Prop where
  offset0 : ∀ x, mixedTwice m0 m3 m2 m1 n0 n1 n2 n3 x = x
  offset1 : ∀ x, mixedTwice m1 m0 m3 m2 n0 n1 n2 n3 x = 0#8
  offset2 : ∀ x, mixedTwice m2 m1 m0 m3 n0 n1 n2 n3 x = 0#8
  offset3 : ∀ x, mixedTwice m3 m2 m1 m0 n0 n1 n2 n3 x = 0#8

theorem mixColumnsBy_cancel {m0 m1 m2 m3 n0 n1 n2 n3 : Byte} (h : MixersCancel m0 m1 m2 m3 n0 n1 n2 n3) (s : Lane) :
    mixColumnsBy n0 n1 n2 n3 (mixColumnsBy m0 m1 m2 m3 s) = s :=
  lane_ext fun r c => by
    have hrow (i : Nat) : stateByte s (r + (i + 4)) c = stateByte s (r + i) c := stateByte_congr s (by omega) rfl
    calc
      stateByte (mixColumnsBy n0 n1 n2 n3 (mixColumnsBy m0 m1 m2 m3 s)) r c
        = mixedTwice m0 m3 m2 m1 n0 n1 n2 n3 (stateByte s r c) ^^^
            mixedTwice m1 m0 m3 m2 n0 n1 n2 n3 (stateByte s (r + 1) c) ^^^
            mixedTwice m2 m1 m0 m3 n0 n1 n2 n3 (stateByte s (r + 2) c) ^^^
            mixedTwice m3 m2 m1 m0 n0 n1 n2 n3 (stateByte s (r + 3) c) := by
          simp only [mixedTwice, stateByte_mixColumnsBy, gmul_xor, Nat.add_assoc, Nat.reduceAdd, hrow 0, hrow 1, hrow 2,
            Nat.add_zero]
          ac_rfl
      _ = stateByte s r c := by simp [h.offset0, h.offset1, h.offset2, h.offset3]

theorem mixers_cancel : MixersCancel 2 3 1 1 14 11 13 9 := by
  constructor <;> decide +kernel

theorem invMixers_cancel : MixersCancel 14 11 13 9 2 3 1 1 := by
  constructor <;> decide +kernel

theorem invMixColumns_mixColumns (s : Lane) : invMixColumns (mixColumns s) = s :=
  mixColumnsBy_cancel mixers_cancel s

theorem mixColumns_invMixColumns (s : Lane) : mixColumns (invMixColumns s) = s :=
  mixColumnsBy_cancel invMixers_cancel s

/-- The equations of R113, the byte of row `r` first. -/
theorem stateByte_invMixColumns (s : Lane) (r c : Nat) :
    stateByte (invMixColumns s) r c = gmul (stateByte s r c) 14 ^^^ gmul (stateByte s (r + 1) c) 11 ^^^
      gmul (stateByte s (r + 2) c) 13 ^^^ gmul (stateByte s (r + 3) c) 9 :=
  stateByte_mixColumnsBy 14 11 13 9 s r c

/-- Settles O12: each equation of R113 is `stateByte_invMixColumns` at its row, with the rows past 3 taken mod 4. -/
theorem invMixColumnsInverts : Obligations.InvMixColumnsInverts := by
  refine fun s => ⟨fun c => ?_, invMixColumns_mixColumns s⟩
  have hnext (t : Lane) {r : Nat} (hr : r < 4) : t[4 * c.val + r] = stateByte t r c :=
    getElem_column_eq_stateByte t hr c.isLt
  have hfirst (t : Lane) : t[4 * c.val] = stateByte t 0 c := hnext t (r := 0) (by decide)
  have hrow (i : Nat) : stateByte s (i + 4) c = stateByte s i c := stateByte_congr s (by omega) rfl
  simp only [hfirst, hnext _ (r := 1) (by decide), hnext _ (r := 2) (by decide), hnext _ (r := 3) (by decide),
    stateByte_invMixColumns, Nat.reduceAdd, hrow 0, hrow 1, hrow 2, true_and]
  refine ⟨?_, ?_, ?_⟩ <;> ac_rfl

/-! ### Rounds -/

theorem xorLane_cancel (a k : Lane) : xorLane (xorLane a k) k = a :=
  Vector.ext fun i hi => by simp [xorLane]

theorem invSubBytes_subBytes (s : Lane) : invSubBytes (subBytes s) = s :=
  lane_ext fun r c => by simp [invSubBytes, subBytes, invSbox_sbox]

theorem subBytes_invSubBytes (s : Lane) : subBytes (invSubBytes s) = s :=
  lane_ext fun r c => by simp [invSubBytes, subBytes, sbox_invSbox]

theorem fwd128_undone (s k : Lane) : invSubBytes (invShiftRows (invMixColumns (xorLane (fwd128 s k) k))) = s := by
  rw [fwd128, xorLane_cancel, invMixColumns_mixColumns, invShiftRows_shiftRows, invSubBytes_subBytes]

theorem inv128_undone (s m : Lane) : subBytes (shiftRows (mixColumns (xorLane (inv128 s m) m))) = s := by
  rw [inv128, xorLane_cancel, mixColumns_invMixColumns, shiftRows_invShiftRows, subBytes_invSubBytes]

@[simp] theorem subLane0_joinLanes (x y : Lane) : subLane0 (joinLanes x y) = x :=
  Vector.ext fun i hi => by simp [subLane0, joinLanes]

@[simp] theorem subLane1_joinLanes (x y : Lane) : subLane1 (joinLanes x y) = y :=
  Vector.ext fun i hi => by simp [subLane1, joinLanes]

@[simp] theorem subLane0_fwdRound (p k : Pair) : subLane0 (fwdRound p k) = fwd128 (subLane0 p) (subLane0 k) := by
  rw [fwdRound, subLane0_joinLanes]

@[simp] theorem subLane1_fwdRound (p k : Pair) : subLane1 (fwdRound p k) = fwd128 (subLane1 p) (subLane1 k) := by
  rw [fwdRound, subLane1_joinLanes]

@[simp] theorem subLane0_invRoundXor (p m : Pair) :
    subLane0 (invRoundXor p m) = inv128 (subLane0 p) (subLane0 m) := by
  rw [invRoundXor, subLane0_joinLanes]

@[simp] theorem subLane1_invRoundXor (p m : Pair) :
    subLane1 (invRoundXor p m) = inv128 (subLane1 p) (subLane1 m) := by
  rw [invRoundXor, subLane1_joinLanes]

/-- Settles O13: each step of a round is cancelled by its inverse step, the last one first. -/
theorem roundsInvertAndSplit : Obligations.RoundsInvertAndSplit :=
  ⟨fwd128_undone, inv128_undone, fun p k =>
    ⟨subLane0_fwdRound p k, subLane1_fwdRound p k, subLane0_invRoundXor p k, subLane1_invRoundXor p k⟩⟩

end Sys2Proof.Machine
end

section
/-! ## The hash as four lanes (40_tables R118) -/

namespace Sys2Proof.Machine

open Sys2Proof.Safety

/-- The logical lane `i` of a lane state under the default `TBL1`: pair A holds lanes 0 and 2, pair B lanes 1 and 3. -/
def logicalLane (l : LaneState) : Fin 4 → Lane
  | 0 => subLane0 l.a
  | 1 => subLane0 l.b
  | 2 => subLane1 l.a
  | 3 => subLane1 l.b

/-- The half of a whitening key that lane `i` uses: both pairs take the same key. -/
def keyLane (k : Pair) (i : Fin 4) : Lane := logicalLane { a := k, b := k } i

/-- The round of logical lane `i` in the hash: forward in pair A, inverse in pair B. -/
def hashLaneRound : Fin 4 → Lane → Lane → Lane
  | 0 => fwd128
  | 1 => inv128
  | 2 => fwd128
  | 3 => inv128

/-! ### Gather and scatter -/

/-- The default table exchanges the block's quarters 1 and 2. -/
theorem tbl1Default_quarters : ∀ j : Fin 16,
    (tbl1Default.fwd[j.val]).val = 16 * 0 + j.val ∧ (tbl1Default.fwd[16 + j.val]).val = 16 * 2 + j.val ∧
    (tbl1Default.fwd[32 + j.val]).val = 16 * 1 + j.val ∧
    (tbl1Default.fwd[32 + (16 + j.val)]).val = 16 * 3 + j.val := by
  decide

theorem logicalLane_gather (b : Block) (i : Fin 4) : logicalLane (gather tbl1Default b) i = laneOf b i :=
  Vector.ext fun j hj => by
    obtain ⟨h0, h2, h1, h3⟩ := tbl1Default_quarters ⟨j, hj⟩
    match i with
    | 0 => simp [logicalLane, subLane0, laneOf, gather_a_get, h0]
    | 1 => simp [logicalLane, subLane0, laneOf, gather_b_get, h1]
    | 2 => simp [logicalLane, subLane1, laneOf, gather_a_get, h2]
    | 3 => simp [logicalLane, subLane1, laneOf, gather_b_get, h3]

theorem laneOf_scatter (l : LaneState) (i : Fin 4) : laneOf (scatter tbl1Default l) i = logicalLane l i := by
  rw [← logicalLane_gather, gather_scatter]

/-! ### Rounds -/

theorem logicalLane_rounds (h g : LaneState) :
    ∀ i, logicalLane { a := fwdRound h.a g.a, b := invRoundXor h.b g.b } i =
      hashLaneRound i (logicalLane h i) (logicalLane g i)
  | 0 => subLane0_fwdRound h.a g.a
  | 1 => subLane0_invRoundXor h.b g.b
  | 2 => subLane1_fwdRound h.a g.a
  | 3 => subLane1_invRoundXor h.b g.b

theorem logicalLane_whiten (h : LaneState) (k : Pair) (i : Fin 4) :
    logicalLane (whiten h k) i = hashLaneRound i (logicalLane h i) (keyLane k i) :=
  logicalLane_rounds h { a := k, b := k } i

theorem logicalLane_hashFinalRounds (cfg : Config) (h : LaneState) (i : Fin 4) :
    logicalLane (hashFinalRounds cfg h) i =
      hashLaneRound i (hashLaneRound i (logicalLane h i) (keyLane cfg.constants.xk[0] i))
        (keyLane cfg.constants.xk[1] i) := by
  rw [hashFinalRounds, logicalLane_whiten, logicalLane_whiten]

section
variable {cfg : Config} (ht : cfg.tbl1 = tbl1Default)
include ht

theorem logicalLane_hashAbsorb (h : LaneState) (blk : Block) (i : Fin 4) :
    logicalLane (hashAbsorb cfg h blk) i = hashLaneRound i (logicalLane h i) (laneOf blk i) := by
  rw [← logicalLane_gather, ← ht]
  exact logicalLane_rounds h (gather cfg.tbl1 blk) i

/-- The hash on one lane: the blocks' lanes in order, then the two whitening rounds. -/
theorem laneOf_hashOf (blks : List Block) (i : Fin 4) :
    laneOf (hashOf cfg blks) i =
      laneHash (hashLaneRound i) (logicalLane (hashInit cfg) i)
        (keyLane cfg.constants.xk[0] i) (keyLane cfg.constants.xk[1] i) i blks := by
  have hblocks := List.foldl_hom (logicalLane · i) (g₁ := hashAbsorb cfg)
    (g₂ := fun l blk => hashLaneRound i l (laneOf blk i)) (l := blks) (init := hashInit cfg)
    fun h blk => (logicalLane_hashAbsorb ht h blk i).symm
  rw [hashOf, hashFinal, ht, laneOf_scatter, logicalLane_hashFinalRounds, laneHash, hblocks]

end

/-- Settles O14: absorbing, finalizing, scattering and the whole hash, each at the four lanes. -/
theorem hashLaneView : Obligations.HashLaneView := by
  intro cfg h blk blks ht
  have habsorb := logicalLane_hashAbsorb ht h blk
  have hfinal := logicalLane_hashFinalRounds cfg h
  have hscatter := laneOf_scatter h
  have hhash := laneOf_hashOf ht blks
  rw [← ht] at hscatter
  exact ⟨habsorb 0, habsorb 1, habsorb 2, habsorb 3, hfinal 0, hfinal 1, hfinal 2, hfinal 3,
    hscatter 0, hscatter 1, hscatter 2, hscatter 3, hhash 0, hhash 1, hhash 2, hhash 3⟩

end Sys2Proof.Machine
end

section
/-! ## HASH (41_hash R133, R139) -/

namespace Sys2Proof.Machine

open Sys2Proof.Safety

/-! ### What a buffer command leaves unchanged -/

theorem sameHostRegs_forget {c d : Context} (h : SameHostRegs c d) (cfg : Config) (n : Nat) :
    SameHostRegs c (d.forget cfg n) := { h with }

theorem retire_sameShared (s : State) (e : Engine) : SameShared s (s.retire e) := by
  constructor <;> simp

/-- The frame of the four buffer commands: the bytes outside the regions written, and the registers no command writes
(20_memory R61; 10_state R26 to R28). `PHASE` is the one the body leaves, since retiring keeps it. -/
theorem exec_buffer_frame {i : Instr} (hb : IsBuffer i) {s t : State} {c : Context} (h : exec i s = .next t)
    (hc : s.contexts[s.cur]? = some c) :
    (∃ d, t.contexts[s.cur]? = some d ∧ SameHostRegs c d ∧
        d.phase = (commandBody i s.cfg (s.engine c)).ctx.phase) ∧
      SameShared s t ∧ SameOthers s t ∧ SameMemOutside (writeSpans i c) s t := by
  obtain ⟨c', hadm, rfl⟩ := exec_buffer_next hb h
  obtain rfl : c = c' := Option.some.inj (hc.symm.trans hadm.current)
  obtain ⟨_, rfl, hregs⟩ := commandBody_hostRegs i s.cfg (s.engine c)
  exact ⟨⟨_, retire_current _ (admissible_lt hadm), sameHostRegs_forget hregs s.cfg s.freeCount, rfl⟩,
    retire_sameShared s _, sameOthers_of_set rfl, commandBody_outside i s.cfg (s.engine c) hadm.size⟩

/-- Settles O16: the digest is the one region HASH writes, so this is `exec_buffer_frame` without its clause on `PHASE`. -/
theorem hashFrame : Obligations.HashFrame := by
  intro s t c h hc
  obtain ⟨⟨d, hd, hregs, -⟩, hframe⟩ := exec_buffer_frame (by decide) h hc
  exact ⟨⟨d, hd, hregs⟩, hframe⟩

/-! ### What HASH leaves behind -/

/-- Step 4 of HASH leaves the engine idle (41_hash R133). -/
@[simp] theorem hashCommand_phase (cfg : Config) (e : Engine) : (hashCommand cfg e).ctx.phase = .idle := rfl

/-- The digest read back is that of the old buffer contents (41_hash R133). -/
theorem hashCommand_digest (cfg : Config) {e : Engine} (hm : Memory.wf e.mem = true) :
    Memory.readBlock (hashCommand cfg e).mem e.ctx.argDigest =
      hashOf cfg (Memory.blocks e.mem e.ctx.argBuf e.ctx.chunks) := by
  rw [hashCommand_mem, Memory.readBlock_writeBlock hm]

/-- Settles O15: an admissible HASH retires `hashCommand`, whose digest and phase are `hashCommand_digest` and
`hashCommand_phase`. -/
theorem hashWritesDigest : Obligations.HashWritesDigest := by
  intro s c hadm hm
  exact ⟨_, _, exec_admissible (by decide) hadm, retire_current _ (admissible_lt hadm),
    hashCommand_phase s.cfg (s.engine c), hashCommand_digest s.cfg (e := s.engine c) hm⟩

/-! ### HASH of an empty buffer -/

/-- The hash of no block is the finalized seed (41_hash R139). -/
theorem hashOf_nil (cfg : Config) : hashOf cfg [] = hashFinal cfg (hashInit cfg) := rfl

theorem Context.chunkAddrs_of_empty {c : Context} (h : c.argLen = 0) : c.chunkAddrs = [] := by
  rw [chunkAddrs, h]
  rfl

/-- Settles O17: an empty buffer has no chunk to read, and its digest is `hashWritesDigest` at no block. -/
theorem hashOfEmptyBuffer : Obligations.HashOfEmptyBuffer := by
  intro s c hadm hm hlen
  obtain ⟨t, -, hexec, -, -, hdigest⟩ := hashWritesDigest s c hadm hm
  rw [hlen, Nat.zero_div, Memory.blocks_zero, hashOf_nil] at hdigest
  refine ⟨?_, t, hexec, hdigest⟩
  rw [accesses_hash, Context.chunkAddrs_of_empty hlen]
  rfl

end Sys2Proof.Machine
end

section
/-! ## FILL1 and FILL4 (42_generator R145 to R158) -/

namespace Sys2Proof.Machine

open Sys2Proof.Safety

/-! ### What a fill leaves unchanged -/

/-- `PHASE` is not a register of the generator (10_state R25). -/
@[simp] theorem fill1Command_phase (cfg : Config) (e : Engine) : (fill1Command cfg e).ctx.phase = e.ctx.phase := by
  obtain ⟨l, hl⟩ := fill1Command_ctx cfg e
  rw [hl, Context.setGen_phase]

/-- `PHASE` is not a register of the generator (10_state R25). -/
@[simp] theorem fill4Command_phase (cfg : Config) (e : Engine) : (fill4Command cfg e).ctx.phase = e.ctx.phase := by
  obtain ⟨l, hl⟩ := fill4Command_ctx cfg e
  rw [hl, Context.setGen_phase]

/-- Settles O19: the frame of a buffer command, with the `PHASE` that `fill1Command_phase` keeps. -/
theorem fill1Frame : Obligations.Fill1Frame := by
  intro s t c h hc
  obtain ⟨⟨d, hd, hregs, hphase⟩, hframe⟩ := exec_buffer_frame (by decide) h hc
  exact ⟨⟨d, hd, hregs, hphase.trans (fill1Command_phase _ _)⟩, hframe⟩

/-- Settles O24: the frame of a buffer command, with the `PHASE` that `fill4Command_phase` keeps. -/
theorem fill4Frame : Obligations.Fill4Frame := by
  intro s t c h hc
  obtain ⟨⟨d, hd, hregs, hphase⟩, hframe⟩ := exec_buffer_frame (by decide) h hc
  exact ⟨⟨d, hd, hregs, hphase.trans (fill4Command_phase _ _)⟩, hframe⟩

/-! ### The stream and the state as functions of the state bytes -/

/-- Continuity: the state after `m` steps, stored and loaded again, goes on as if it had never left the engine. -/
theorem genState_add (next : LaneState → LaneState) (t : Perm64) (st : Block) (m n : Nat) :
    genState next t st (m + n) = genState next t (scatter t (genState next t st m)) n := by
  rw [genState_eq, genState_eq _ _ (scatter _ _), gather_scatter, genState_eq, Nat.add_comm,
    Function.iterate_add_apply]

theorem fill1State_zero (cfg : Config) (st : Block) : fill1State cfg st 0 = st :=
  scatter_gather cfg.tbl1 st

theorem fill1State_add (cfg : Config) (st : Block) (m n : Nat) :
    fill1State cfg st (m + n) = fill1State cfg (fill1State cfg st m) n :=
  congrArg (scatter cfg.tbl1) (genState_add (gen1Step cfg) cfg.tbl1 st m n)

/-- Settles O21: `fill1State_add` for the state; the chunks from `m` on are those of the state after `m`. -/
theorem fill1StreamSplits : Obligations.Fill1StreamSplits := by
  refine fun cfg st m n => ⟨?_, fill1State_add cfg st m n⟩
  rw [fill1Out, List.range_add, List.map_append, List.map_map]
  exact congrArg (fill1Out cfg st m ++ ·) (List.map_congr_left fun k _ => fill1State_add cfg st m (k + 1))

/-! ### The memory a fill leaves -/

/-- The memory when the loop of a fill on context `c` has run from `m`, before FILL1 stores the state. -/
def memFilled (next : LaneState → LaneState) (t : Perm64) (c : Context) (m : Memory) : Memory :=
  (fillLoop next t c.chunks (loaded t { ctx := c, mem := m, trace := [] })).mem

/-- The buffer and the state buffer of `c` share no byte. -/
def Context.BuffersApart (c : Context) : Prop :=
  c.chunks = 0 ∨ c.argBuf + 64 * c.chunks ≤ c.argState ∨ c.argState + 64 ≤ c.argBuf

/-- Admission keeps the two buffers apart (20_memory R59). -/
theorem buffersApart {i : Instr} {s : State} {c : Context} (h : Admissible i s c)
    (hr : regions i c = [c.bufSpan, c.stateSpan]) : c.BuffersApart := by
  have hd := h.disjoint
  rw [hr, List.pairwise_pair] at hd
  have ha := span_apart hd
  have hl := Context.chunks_size h.size
  simp only [Context.bufSpan, Context.stateSpan] at ha
  unfold Context.BuffersApart
  omega

section
variable {cfg : Config} {c : Context} {m : Memory}

theorem memAfter_fill1 (cfg : Config) (c : Context) (m : Memory) :
    memAfter .fill1 cfg c m =
      Memory.writeBlock (memFilled (gen1Step cfg) cfg.tbl1 c m) c.argState
        (fill1State cfg (Memory.readBlock m c.argState) c.chunks) :=
  fill1Command_mem cfg _

theorem memAfter_fill4 (cfg : Config) (c : Context) (m : Memory) :
    memAfter .fill4 cfg c m = memFilled (gen4Step cfg) cfg.tbl4 c m := rfl

theorem memFilled_empty (next : LaneState → LaneState) (t : Perm64) (m : Memory) (h : c.chunks = 0) :
    memFilled next t c m = m := by
  rw [memFilled, h]
  rfl

theorem memFilled_read_outside (next : LaneState → LaneState) (t : Perm64) (m : Memory) {x : Nat}
    (h : x < c.argBuf ∨ c.argBuf + 64 * c.chunks ≤ x) : Memory.read (memFilled next t c m) x = Memory.read m x :=
  fillLoop_read_outside next t c.chunks (loaded t _) h

theorem memFilled_state (next : LaneState → LaneState) (t : Perm64) (m : Memory) (ha : c.BuffersApart) :
    Memory.readBlock (memFilled next t c m) c.argState = Memory.readBlock m c.argState := by
  obtain h0 | ha := ha
  · rw [memFilled_empty next t m h0]
  · exact Memory.readBlock_congr fun i hi => memFilled_read_outside next t m (by omega)

section
variable (hm : Memory.wf m = true)
include hm

theorem memFilled_wf (next : LaneState → LaneState) (t : Perm64) : Memory.wf (memFilled next t c m) = true :=
  fillLoop_wf next t c.chunks _ hm

/-- Chunk `k` of the buffer is the image of the state after `k + 1` steps (42_generator R147, R152). -/
theorem memFilled_chunk (next : LaneState → LaneState) (t : Perm64) {k : Nat} (hk : k < c.chunks) :
    Memory.readBlock (memFilled next t c m) (c.argBuf + 64 * k) =
      scatter t (genState next t (Memory.readBlock m c.argState) (k + 1)) := by
  rw [genState_eq]
  exact fillLoop_chunk next t c.chunks (loaded t { ctx := c, mem := m, trace := [] }) hm hk

theorem memAfter_fill1_state :
    Memory.readBlock (memAfter .fill1 cfg c m) c.argState =
      fill1State cfg (Memory.readBlock m c.argState) c.chunks := by
  rw [memAfter_fill1, Memory.readBlock_writeBlock (memFilled_wf hm _ _)]

/-- Storing the state does not disturb the chunks, which lie apart from it. -/
theorem memAfter_fill1_chunk (ha : c.BuffersApart) {k : Nat} (hk : k < c.chunks) :
    Memory.readBlock (memAfter .fill1 cfg c m) (c.argBuf + 64 * k) =
      fill1State cfg (Memory.readBlock m c.argState) (k + 1) := by
  unfold Context.BuffersApart at ha
  rw [memAfter_fill1, Memory.readBlock_writeBlock_apart (by omega)]
  exact memFilled_chunk hm (gen1Step cfg) cfg.tbl1 hk

end
end

/-- A buffer command that is admissible completes with the memory of its body. -/
theorem exec_memAfter {i : Instr} (hb : IsBuffer i) {s : State} {c : Context} (h : Admissible i s c) :
    ∃ t, exec i s = .next t ∧ t.mem = memAfter i s.cfg c s.mem :=
  ⟨_, exec_admissible hb h, rfl⟩

/-- Settles O18: the chunks by `memAfter_fill1_chunk`, the state buffer by `memAfter_fill1_state`. -/
theorem fill1WritesStream : Obligations.Fill1WritesStream := by
  intro s c hadm hm
  obtain ⟨t, ht, hmem⟩ := exec_memAfter (by decide) hadm
  refine ⟨t, ht, ?_, ?_⟩ <;> rw [hmem]
  · exact Memory.blocks_eq_map fun k hk => memAfter_fill1_chunk hm (buffersApart hadm rfl) hk
  · exact memAfter_fill1_state hm

/-- Settles O23: the chunks by `memFilled_chunk`, and the loop does not reach the state buffer. -/
theorem fill4WritesStream : Obligations.Fill4WritesStream := by
  intro s c hadm hm
  obtain ⟨t, ht, hmem⟩ := exec_memAfter (by decide) hadm
  refine ⟨t, ht, ?_, ?_⟩ <;> rw [hmem, memAfter_fill4]
  · exact Memory.blocks_eq_map fun k hk => memFilled_chunk hm _ _ hk
  · exact memFilled_state _ _ _ (buffersApart hadm rfl)

/-- Settles O20: the last of `n + 1` chunks is the image of the state after `n + 1` steps, which is the one stored; the
state after no step is the one loaded. -/
theorem fill1StateIsLastChunk : Obligations.Fill1StateIsLastChunk := by
  intro s c hadm hm
  obtain ⟨t, ht, hmem⟩ := exec_memAfter (by decide) hadm
  have hsize := Context.chunks_size hadm.size
  refine ⟨t, ht, fun hlen => ?_, fun hlen => ?_⟩ <;> rw [hmem, memAfter_fill1_state hm]
  · obtain ⟨n, hn⟩ : ∃ n, c.chunks = n + 1 := ⟨c.chunks - 1, by omega⟩
    rw [show c.argBuf + c.argLen - 64 = c.argBuf + 64 * n by omega,
      memAfter_fill1_chunk hm (buffersApart hadm rfl) (by omega), hn]
  · rw [show c.chunks = 0 by omega, fill1State_zero]

/-! ### A fill of nothing -/

/-- Storing the block that is there changes no byte. -/
theorem Memory.read_writeBlock_readBlock {m : Memory} (hm : Memory.wf m = true) (a x : Nat) :
    Memory.read (Memory.writeBlock m a (Memory.readBlock m a)) x = Memory.read m x := by
  by_cases hx : a ≤ x ∧ x < a + 64
  · rw [Memory.read_writeBlock_at hm hx.1 hx.2, Memory.readBlock_get, Nat.add_sub_cancel' hx.1]
  · exact Memory.read_writeBlock_outside (by omega)

/-- Settles O25: with no chunk FILL1 stores the block it loaded, and FILL4 leaves the memory it found. -/
theorem fillsOfNothing : Obligations.FillsOfNothing := by
  intro s c hm hlen
  have hchunks : c.chunks = 0 := by rw [Context.chunks, hlen]
  refine ⟨?_, ?_, fun hadm => ?_, fun hadm => ?_⟩
  · rw [accesses_fill1, Context.chunkAddrs_of_empty hlen]
    rfl
  · rw [accesses_fill4, Context.chunkAddrs_of_empty hlen]
    rfl
  · obtain ⟨t, ht, hmem⟩ := exec_memAfter (by decide) hadm
    refine ⟨t, ht, fun a => ?_⟩
    rw [hmem, memAfter_fill1, memFilled_empty _ _ _ hchunks, hchunks, fill1State_zero]
    exact Memory.read_writeBlock_readBlock hm c.argState a
  · obtain ⟨t, ht, hmem⟩ := exec_memAfter (by decide) hadm
    refine ⟨t, ht, fun a => ?_⟩
    rw [hmem, memAfter_fill4, memFilled_empty _ _ _ hchunks]

/-! ### The stream depends on the state bytes only -/

theorem Context.lt_chunks {c : Context} (h : c.argLen % 64 = 0) {k : Nat} (hk : 64 * k < c.argLen) : k < c.chunks := by
  have hsize := Context.chunks_size h
  omega

/-- Each fill has a stream: a function of the configuration, the state bytes and the chunk number that says what every
admissible run writes (42_generator R158). -/
theorem fill_stream {i : Instr} (hi : i = .fill1 ∨ i = .fill4) :
    ∃ stream : Config → Block → Nat → Block, ∀ (s : State) (c : Context), Admissible i s c → Memory.wf s.mem = true →
      ∃ t, exec i s = .next t ∧ ∀ k, 64 * k < c.argLen →
        Memory.readBlock t.mem (c.argBuf + 64 * k) = stream s.cfg (Memory.readBlock s.mem c.argState) k := by
  obtain rfl | rfl := hi
  · refine ⟨fun cfg st k => fill1State cfg st (k + 1), fun s c hadm hm => ?_⟩
    obtain ⟨t, ht, hmem⟩ := exec_memAfter (by decide) hadm
    refine ⟨t, ht, fun k hk => ?_⟩
    rw [hmem]
    exact memAfter_fill1_chunk hm (buffersApart hadm rfl) (Context.lt_chunks hadm.size hk)
  · refine ⟨fun cfg st k => scatter cfg.tbl4 (genState (gen4Step cfg) cfg.tbl4 st (k + 1)), fun s c hadm hm => ?_⟩
    obtain ⟨t, ht, hmem⟩ := exec_memAfter (by decide) hadm
    refine ⟨t, ht, fun k hk => ?_⟩
    rw [hmem]
    exact memFilled_chunk hm _ _ (Context.lt_chunks hadm.size hk)

/-- Settles O26: both runs write chunks of the one stream of `fill_stream`. -/
theorem fillsDependOnStateBytes : Obligations.FillsDependOnStateBytes := by
  intro s s' c c' hm hm' hcfg hst i hi hadm hadm'
  obtain ⟨stream, hstream⟩ := fill_stream hi
  obtain ⟨t, ht, hchunk⟩ := hstream s c hadm hm
  obtain ⟨t', ht', hchunk'⟩ := hstream s' c' hadm' hm'
  refine ⟨t, t', ht, ht', fun k hk hk' => ?_⟩
  rw [hchunk k hk, hchunk' k hk', hcfg, hst]

end Sys2Proof.Machine
end

section
/-! ## FILL1 in two parts (42_generator R150) -/

namespace Sys2Proof.Machine

open Sys2Proof.Safety

/-- Context `d` fills `n` chunks of the buffer of `c`, from chunk `k` on, with the state buffer of `c`. -/
structure FillPart (c d : Context) (k n : Nat) : Prop where
  buf : d.argBuf = c.argBuf + 64 * k
  len : d.argLen = 64 * n
  state : d.argState = c.argState

theorem FillPart.chunks {c d : Context} {k n : Nat} (hp : FillPart c d k n) : d.chunks = n := by
  rw [Context.chunks, hp.len]
  omega

/-! ### Admission of a part -/

/-- A part of an admissible FILL1 is admissible, in a state with the same record and configuration: its buffer starts at a
multiple of 64, so of `BUF_ALIGN`, and every byte of it is one of the whole buffer (20_memory R56 to R59). -/
theorem FillPart.admissible {c d : Context} {k n : Nat} (hp : FillPart c d k n) (hn : 64 * k + 64 * n ≤ c.argLen)
    {s t : State} (h : Admissible .fill1 s c) (hwf : s.cfg.wf = true) (hd : t.contexts[t.cur]? = some d)
    (hdet : t.det = s.det) (hcap : t.cap = s.cap) (hcfg : t.cfg = s.cfg)
    (hwr : ∀ r, c.argWritten r = true → d.argWritten r = true) : Admissible .fill1 t d := by
  obtain ⟨hbuf, hlen, hstate⟩ := hp
  obtain ⟨-, halign, -⟩ := config_wf_iff.1 hwf
  have hspan : d.stateSpan = c.stateSpan := congrArg (Span.mk · 64) hstate
  have hsub : ∀ a, InSpan a d.bufSpan → InSpan a c.bufSpan := by
    intro a ha
    simp only [InSpan, Context.bufSpan] at ha ⊢
    omega
  have hrange : d.argBuf + d.argLen ≤ 2 ^ s.cfg.addrBits := by
    have := (List.forall_mem_cons.1 h.inRange).1
    simp only [Context.bufSpan] at this
    omega
  have hbufAlign : d.argBuf % s.cfg.bufAlign = 0 := by
    have hc : s.cfg.bufAlign ∣ c.argBuf := Nat.dvd_of_mod_eq_zero (List.forall_mem_cons.1 h.aligned).1
    rw [hbuf]
    exact Nat.mod_eq_zero_of_dvd (Nat.dvd_add hc ((Nat.dvd_of_mod_eq_zero halign).mul_right k))
  exact {
    current := hd
    ready := hdet.trans h.ready
    capable := hcap ▸ h.capable
    written := fun r hr => hwr r (h.written r hr)
    size := by rw [hlen, Nat.mul_mod_right]
    inRange := by
      rw [hcfg]
      exact List.forall_mem_cons.2 ⟨hrange, hspan ▸ (List.forall_mem_cons.1 h.inRange).2⟩
    aligned := by
      rw [hcfg]
      exact List.forall_mem_cons.2 ⟨hbufAlign, hspan ▸ (List.forall_mem_cons.1 h.aligned).2⟩
    disjoint := List.pairwise_pair.2 (hspan ▸ fun a ⟨hb, hs⟩ => List.pairwise_pair.1 h.disjoint a ⟨hsub a hb, hs⟩)
    readable := by
      rw [hcfg, readSpans, hspan]
      exact h.readable
    writable := by
      rw [hcfg]
      exact List.forall_mem_cons.2 ⟨fun a ha => (List.forall_mem_cons.1 h.writable).1 a (hsub a ha),
        hspan ▸ (List.forall_mem_cons.1 h.writable).2⟩ }

/-- FILL1 of a part completes; it leaves the memory of its body, the host's registers and the shared state. -/
theorem FillPart.exec {c d : Context} {k n : Nat} (hp : FillPart c d k n) (hn : 64 * k + 64 * n ≤ c.argLen)
    {s t : State} (h : Admissible .fill1 s c) (hwf : s.cfg.wf = true) (hd : t.contexts[t.cur]? = some d)
    (hdet : t.det = s.det) (hcap : t.cap = s.cap) (hcfg : t.cfg = s.cfg)
    (hwr : ∀ r, c.argWritten r = true → d.argWritten r = true) :
    ∃ u e, exec .fill1 t = .next u ∧ u.mem = memAfter .fill1 s.cfg d t.mem ∧ u.contexts[t.cur]? = some e ∧
      SameHostRegs d e ∧ SameShared t u := by
  obtain ⟨u, hu, hmem⟩ := exec_memAfter (by decide) (hp.admissible hn h hwf hd hdet hcap hcfg hwr)
  obtain ⟨⟨e, he, hregs, -⟩, hshared, -⟩ := exec_buffer_frame (by decide) hu hd
  exact ⟨u, e, hu, hcfg ▸ hmem, he, hregs, hshared⟩

/-! ### The memory of the parts -/

theorem fillLoop_add (next : LaneState → LaneState) (t : Perm64) (m n : Nat) (e : Engine) :
    fillLoop next t (m + n) e = fillLoop next t n (fillLoop next t m e) := by
  induction m generalizing e with
  | zero => rw [Nat.zero_add, fillLoop]
  | succ m ih => rw [Nat.succ_add, fillLoop, fillLoop, ih]

theorem fillLoop_chunkAddr (next : LaneState → LaneState) (t : Perm64) (n : Nat) (e : Engine) :
    (fillLoop next t n e).chunkAddr = e.chunkAddr + 64 * n := by
  simp only [Engine.chunkAddr, fillLoop_ctx, Context.setGen_argBuf, Nat.add_assoc]

theorem fillLoop_gen (next : LaneState → LaneState) (t : Perm64) (n : Nat) (e : Engine) :
    (fillLoop next t n e).ctx.genLanes = next^[n] e.ctx.genLanes := by
  rw [fillLoop_ctx]
  rfl

section
variable {c c₁ c₂ : Context} {n₁ n₂ : Nat} {m : Memory} (h₁ : FillPart c c₁ 0 n₁) (h₂ : FillPart c c₂ n₁ n₂)
  (hn : c.chunks = n₁ + n₂) (hm : Memory.wf m = true)
include h₁ h₂ hn hm

/-- Where the second part starts from the bytes the first one left, and from its state, the two parts fill what the whole
fills: the loop of the whole is the loop of the second part run after that of the first. -/
theorem read_memFilled_parts (next : LaneState → LaneState) (t : Perm64) {m₁ : Memory} (hm₁ : Memory.wf m₁ = true)
    (hst : Memory.readBlock m₁ c.argState = scatter t (genState next t (Memory.readBlock m c.argState) n₁)) {x : Nat}
    (hx : Memory.read m₁ x = Memory.read (memFilled next t c₁ m) x) :
    Memory.read (memFilled next t c₂ m₁) x = Memory.read (memFilled next t c m) x := by
  have hfirst : Memory.read m₁ x =
      Memory.read (fillLoop next t n₁ (loaded t { ctx := c, mem := m, trace := [] })).mem x := by
    rw [hx, memFilled, h₁.chunks]
    exact fillLoop_read_congr next t n₁ hm hm h₁.buf (by simp only [loaded_gen, h₁.state]) (.inr rfl)
  rw [memFilled, memFilled, hn, h₂.chunks, fillLoop_add]
  refine fillLoop_read_congr next t n₂ (fillLoop_wf _ _ _ _ hm) hm₁ ?_ ?_ (.inr hfirst)
  · rw [fillLoop_chunkAddr]
    exact h₂.buf
  · rw [fillLoop_gen, loaded_gen, loaded_gen, h₂.state, hst, gather_scatter, genState_eq]

/-- FILL1 in two parts leaves every byte as FILL1 at once does: the state buffer by continuity of the state, every other byte
because the second part starts from the bytes the first one left. -/
theorem read_memAfter_fill1_parts (cfg : Config) (a : Nat) :
    Memory.read (memAfter .fill1 cfg c₂ (memAfter .fill1 cfg c₁ m)) a = Memory.read (memAfter .fill1 cfg c m) a := by
  have hm₁ : Memory.wf (memAfter .fill1 cfg c₁ m) = true := commandBody_wf .fill1 cfg _ hm
  have hst : Memory.readBlock (memAfter .fill1 cfg c₁ m) c.argState =
      fill1State cfg (Memory.readBlock m c.argState) n₁ := by
    rw [← h₁.state, ← h₁.chunks]
    exact memAfter_fill1_state hm
  rw [memAfter_fill1 cfg c₂, memAfter_fill1 cfg c, h₂.state, hst, h₂.chunks, ← fill1State_add, ← hn]
  refine Memory.read_writeBlock_congr _ (memFilled_wf hm _ _) (memFilled_wf hm₁ _ _) ?_
  by_cases ha : c.argState ≤ a ∧ a < c.argState + 64
  · exact .inl ha
  · refine .inr (read_memFilled_parts h₁ h₂ hn hm _ _ hm₁ hst ?_)
    rw [memAfter_fill1, h₁.state, Memory.read_writeBlock_outside (by omega)]

end

theorem State.setArgOf_context {s : State} {k : Nat} {c : Context} (h : s.contexts[k]? = some c) (r : ArgReg) (v : Nat) :
    (s.setArgOf k r v).contexts[k]? = some (c.setArg v r) := by
  rw [State.setArgOf_eq h]
  exact List.getElem?_set_self (List.getElem?_eq_some_iff.1 h).1

/-- Settles O22: both parts complete by `FillPart.exec`, since the first command keeps the operand registers, and
`read_memAfter_fill1_parts` compares the memories. -/
theorem fill1TwoCallsEqualOne : Obligations.Fill1TwoCallsEqualOne := by
  intro s c n1 n2 hadm hm hwf hlen hn1
  obtain ⟨k₁, rfl⟩ : 64 ∣ n1 := Nat.dvd_of_mod_eq_zero hn1
  obtain ⟨k₂, rfl⟩ : 64 ∣ n2 := (Nat.dvd_add_right ⟨k₁, rfl⟩).1 (hlen ▸ Nat.dvd_of_mod_eq_zero hadm.size)
  have hsize := Context.chunks_size hadm.size
  obtain ⟨t, ht, htmem⟩ := exec_memAfter (by decide) hadm
  -- the first command, on the first `n1` bytes
  have hc₁ := State.setArgOf_context hadm.current .len (64 * k₁)
  have hpart₁ : FillPart c (c.setArg (64 * k₁) .len) 0 k₁ := ⟨rfl, rfl, rfl⟩
  obtain ⟨u, d, hu, humem, hd, hregs, hshared⟩ := hpart₁.exec (t := s.setArgOf s.cur .len (64 * k₁)) (by omega) hadm hwf
    (by simpa using hc₁) (by simp) (by simp) (by simp) (fun r hr => by simp [hr])
  -- the second command, on the `n2` bytes after them
  rw [State.setArgOf_cur] at hd
  have hc₂ := State.setArgOf_context (State.setArgOf_context hd .buf (c.argBuf + 64 * k₁)) .len (64 * k₂)
  have hcur : u.cur = s.cur := by simpa using hshared.cur
  have hpart₂ : FillPart c ((d.setArg (c.argBuf + 64 * k₁) .buf).setArg (64 * k₂) .len) k₁ k₂ :=
    ⟨rfl, rfl, hregs.argState⟩
  have hwr : ∀ r, c.argWritten r = true →
      ((d.setArg (c.argBuf + 64 * k₁) .buf).setArg (64 * k₂) .len).argWritten r = true := by
    rintro (_ | _ | _ | _) hr
    · rfl
    · rfl
    · exact hregs.stateWritten.trans hr
    · exact hregs.digestWritten.trans hr
  obtain ⟨v, -, hv, hvmem, -⟩ := hpart₂.exec
    (t := (u.setArgOf s.cur .buf (c.argBuf + 64 * k₁)).setArgOf s.cur .len (64 * k₂)) (by omega) hadm hwf
    (by simpa [hcur] using hc₂) (by simpa using hshared.det) (by simpa using hshared.cap) (by simpa using hshared.cfg) hwr
  refine ⟨t, u, v, ht, hu, hv, fun a => ?_⟩
  rw [hvmem, htmem, State.setArgOf_mem, State.setArgOf_mem, humem, State.setArgOf_mem]
  exact read_memAfter_fill1_parts hpart₁ hpart₂ (by omega) hm s.cfg a

end Sys2Proof.Machine
end

section
/-! ## The rounds of the generators (42_generator R148, R153; 40_tables R118) -/

namespace Sys2Proof.Machine

open Sys2Proof.Safety

/-! ### The chunks of the streams -/

theorem getElem?_fill1Out (cfg : Config) (st : Block) {m k : Nat} (h : k < m) :
    (fill1Out cfg st m)[k]? = some (scatter cfg.tbl1 ((gen1Step cfg)^[k + 1] (gather cfg.tbl1 st))) := by
  rw [fill1Out, List.getElem?_map, List.getElem?_range h, Option.map_some, genState_eq]

theorem getElem?_fill4Out (cfg : Config) (st : Block) {m k : Nat} (h : k < m) :
    (fill4Out cfg st m)[k]? = some (scatter cfg.tbl4 ((gen4Step cfg)^[k + 1] (gather cfg.tbl4 st))) := by
  rw [fill4Out, List.getElem?_map, List.getElem?_range h, Option.map_some, genState_eq]

/-! ### Steps that act on parts of the lane state -/

/-- A step that acts on each pair alone is iterated on each pair alone. -/
theorem iterate_pairs {next : LaneState → LaneState} {f g : Pair → Pair}
    (h : ∀ l, next l = { a := f l.a, b := g l.b }) (n : Nat) (l : LaneState) :
    next^[n] l = { a := f^[n] l.a, b := g^[n] l.b } := by
  have ha : Function.Semiconj LaneState.a next f := fun l => congrArg LaneState.a (h l)
  have hb : Function.Semiconj LaneState.b next g := fun l => congrArg LaneState.b (h l)
  exact congrArg₂ LaneState.mk (ha.iterate_right n l) (hb.iterate_right n l)

/-- `Gen1Step` on each pair: one round (42_generator R148). -/
theorem gen1Step_pairs (cfg : Config) (l : LaneState) :
    gen1Step cfg l = { a := invRoundXor l.a cfg.constants.g1kA, b := fwdRound l.b cfg.constants.g1kB } := rfl

/-- `Gen4Step` on each pair: the four rounds in index order (42_generator R153). -/
theorem gen4Step_pairs (cfg : Config) (l : LaneState) :
    gen4Step cfg l =
      { a := [0, 1, 2, 3].foldl (fun p (r : Fin 4) => invRoundXor p cfg.constants.g4kA[r]) l.a
        b := [0, 1, 2, 3].foldl (fun p (r : Fin 4) => fwdRound p cfg.constants.g4kB[r]) l.b } := rfl

/-- The round of logical lane `i` in the generators: inverse in pair A, forward in pair B. -/
def genLaneRound : Fin 4 → Lane → Lane → Lane
  | 0 => inv128
  | 1 => fwd128
  | 2 => inv128
  | 3 => fwd128

/-- The part of `G1K_A`, `G1K_B` that lane `i` uses. -/
def gen1LaneKey (cfg : Config) (i : Fin 4) : Lane :=
  logicalLane { a := cfg.constants.g1kA, b := cfg.constants.g1kB } i

theorem logicalLane_gen1Step (cfg : Config) (l : LaneState) :
    ∀ i, logicalLane (gen1Step cfg l) i = genLaneRound i (logicalLane l i) (gen1LaneKey cfg i)
  | 0 => subLane0_invRoundXor l.a cfg.constants.g1kA
  | 1 => subLane0_fwdRound l.b cfg.constants.g1kB
  | 2 => subLane1_invRoundXor l.a cfg.constants.g1kA
  | 3 => subLane1_fwdRound l.b cfg.constants.g1kB

/-- Under the default table a lane of a generated block is the rounds of that lane of the state bytes. -/
theorem laneOf_gen1 (cfg : Config) (st : Block) (n : Nat) (i : Fin 4) :
    laneOf (scatter tbl1Default ((gen1Step cfg)^[n] (gather tbl1Default st))) i =
      (genLaneRound i · (gen1LaneKey cfg i))^[n] (laneOf st i) := by
  have hlane : Function.Semiconj (logicalLane · i) (gen1Step cfg) (genLaneRound i · (gen1LaneKey cfg i)) :=
    fun l => logicalLane_gen1Step cfg l i
  rw [laneOf_scatter, ← logicalLane_gather]
  exact hlane.iterate_right n _

/-- Settles O59: gathering a chunk gives the iterated step back, which `iterate_pairs` splits into pairs and `laneOf_gen1` into
lanes. -/
theorem generatorRounds : Obligations.GeneratorRounds := by
  intro cfg st m k hk
  refine ⟨_, _, getElem?_fill1Out cfg st hk, getElem?_fill4Out cfg st hk, ?_, ?_, fun ht => ?_⟩
  · rw [gather_scatter]
    exact iterate_pairs (gen1Step_pairs cfg) (k + 1) _
  · rw [gather_scatter]
    exact iterate_pairs (gen4Step_pairs cfg) (k + 1) _
  · rw [ht]
    have hlane := laneOf_gen1 cfg st (k + 1)
    exact ⟨hlane 0, hlane 1, hlane 2, hlane 3⟩

end Sys2Proof.Machine
end

section
/-! ## HASHFILL (43_fused R165 to R171) -/

namespace Sys2Proof.Machine

open Sys2Proof.Safety

/-- Settles O28: the frame of a buffer command, whose written regions are the three of HASHFILL. -/
theorem hashFillFrame : Obligations.HashFillFrame := by
  intro s t c h hc
  obtain ⟨⟨d, hd, hregs, -⟩, hframe⟩ := exec_buffer_frame (by decide) h hc
  exact ⟨⟨d, hd, hregs⟩, hframe⟩

/-! ### What HASHFILL admits, HASH and FILL1 admit -/

/-- A command that reads operand registers and uses regions of another only is admissible where the other is. -/
theorem admissible_mono {i j : Instr} {s : State} {c : Context} (h : Admissible i s c) (ho : operands j ⊆ operands i)
    (hr : (regions j c).Sublist (regions i c)) (hrd : readSpans j c ⊆ readSpans i c)
    (hws : writeSpans j c ⊆ writeSpans i c) : Admissible j s c :=
  { h with
    written := fun r hm => h.written r (ho hm)
    inRange := fun x hx => h.inRange x (hr.subset hx)
    aligned := fun x hx => h.aligned x (hr.subset hx)
    disjoint := h.disjoint.sublist hr
    readable := fun x hx => h.readable x (hrd hx)
    writable := fun x hx => h.writable x (hws hx) }

section
variable {s : State} {c : Context} (h : Admissible .hashFill s c)
include h

theorem admissible_hash_of_hashFill : Admissible .hash s c :=
  admissible_mono h (by decide) (by simp [regions]) (by simp [readSpans]) (by simp [writeSpans])

theorem admissible_fill1_of_hashFill : Admissible .fill1 s c :=
  admissible_mono h (by decide) (by simp [regions]) (by simp [readSpans]) (by simp [writeSpans])

/-- The digest buffer shares no byte with the regions FILL1 uses (20_memory R59). -/
theorem outside_digest {x : Span} (hx : x ∈ regions .fill1 c) {a : Nat} (ha : InSpan a x) :
    a < c.argDigest ∨ c.argDigest + 64 ≤ a := by
  have hdisjoint := h.disjoint
  rw [show regions .hashFill c = regions .fill1 c ++ [c.digestSpan] from rfl] at hdisjoint
  obtain ⟨-, -, hcross⟩ := List.pairwise_append.1 hdisjoint
  have happart := hcross x hx c.digestSpan (List.mem_singleton_self _) a
  simp only [InSpan, Context.digestSpan] at ha happart
  omega

end

/-! ### The memory HASHFILL leaves -/

theorem memAfter_wf (i : Instr) (cfg : Config) (c : Context) {m : Memory} (hm : Memory.wf m = true) :
    Memory.wf (memAfter i cfg c m) = true :=
  commandBody_wf i cfg _ hm

theorem memAfter_hashFill (cfg : Config) (c : Context) (m : Memory) :
    memAfter .hashFill cfg c m =
      Memory.writeBlock (memAfter .fill1 cfg c m) c.argDigest (hashOf cfg (Memory.blocks m c.argBuf c.chunks)) :=
  hashFillCommand_mem cfg _

/-- The digest is that of the contents the scratchpad had before the fill overwrote them (43_fused R167). -/
theorem memAfter_hashFill_digest {cfg : Config} {c : Context} {m : Memory} (hm : Memory.wf m = true) :
    Memory.readBlock (memAfter .hashFill cfg c m) c.argDigest = hashOf cfg (Memory.blocks m c.argBuf c.chunks) := by
  rw [memAfter_hashFill, Memory.readBlock_writeBlock (memAfter_wf .fill1 cfg c hm)]

/-- Outside the digest HASHFILL leaves the bytes that FILL1 leaves (43_fused R168). -/
theorem read_memAfter_hashFill {cfg : Config} {c : Context} {m : Memory} {a : Nat}
    (ha : a < c.argDigest ∨ c.argDigest + 64 ≤ a) :
    Memory.read (memAfter .hashFill cfg c m) a = Memory.read (memAfter .fill1 cfg c m) a := by
  rw [memAfter_hashFill, Memory.read_writeBlock_outside ha]

/-! ### The fusion -/

/-- A buffer command that has completed left the memory of its body. -/
theorem mem_of_exec {i : Instr} (hb : IsBuffer i) {s t : State} {c : Context} (h : Admissible i s c)
    (ht : exec i s = .next t) : t.mem = memAfter i s.cfg c s.mem := by
  rw [exec_admissible hb h] at ht
  cases ht
  rfl

/-- Settles O29: the digest is HASH's by the closed form both have, every other byte is FILL1's by `read_memAfter_hashFill`,
and so are scratchpad and state buffer, which lie outside the digest. -/
theorem fusionEquivalence : Obligations.FusionEquivalence := by
  intro s c hadm hm
  have hfill := admissible_fill1_of_hashFill hadm
  obtain ⟨t, ht, htmem⟩ := exec_memAfter (by decide) hadm
  obtain ⟨h, -, hh, -, -, hdigest⟩ := hashWritesDigest s c (admissible_hash_of_hashFill hadm) hm
  obtain ⟨f, hf, hstream, hstate⟩ := fill1WritesStream s c hfill hm
  have hfused : Memory.readBlock t.mem c.argDigest = hashOf s.cfg (Memory.blocks s.mem c.argBuf (c.argLen / 64)) := by
    rw [htmem]
    exact memAfter_hashFill_digest hm
  have hbytes : ∀ a, (a < c.argDigest ∨ c.argDigest + 64 ≤ a) → Memory.read t.mem a = Memory.read f.mem a := by
    intro a ha
    rw [htmem, mem_of_exec (by decide) hfill hf, read_memAfter_hashFill ha]
  have hbuf : Memory.blocks t.mem c.argBuf (c.argLen / 64) = Memory.blocks f.mem c.argBuf (c.argLen / 64) :=
    Memory.blocks_congr fun k hk => hbytes _ (outside_digest hadm (x := c.bufSpan) (by simp [regions])
      ⟨Nat.le_add_right .., Nat.add_lt_add_left (hk.trans_eq (Context.chunks_size hadm.size)) _⟩)
  have hst : Memory.readBlock t.mem c.argState = Memory.readBlock f.mem c.argState :=
    Memory.readBlock_congr fun k hk => hbytes _ (outside_digest hadm (x := c.stateSpan) (by simp [regions])
      ⟨Nat.le_add_right .., Nat.add_lt_add_left hk _⟩)
  exact ⟨t, h, f, ht, hh, hf, hfused.trans hdigest.symm, hbytes, hfused, hbuf.trans hstream, hst.trans hstate⟩

/-- The last step of HASHFILL leaves the engine idle (43_fused R166). -/
@[simp] theorem hashFillCommand_phase (cfg : Config) (e : Engine) : (hashFillCommand cfg e).ctx.phase = .idle := rfl

/-- Settles O27: `fusionEquivalence` has the closed forms, `hashFillCommand_phase` the phase. -/
theorem hashFillWritesAll : Obligations.HashFillWritesAll := by
  intro s c hadm hm
  obtain ⟨t, -, -, ht, -, -, -, -, hclosed⟩ := fusionEquivalence s c hadm hm
  obtain ⟨⟨d, hd, -, hphase⟩, -⟩ := exec_buffer_frame (by decide) ht hadm.current
  exact ⟨t, d, ht, hd, hphase.trans (hashFillCommand_phase _ _), hclosed⟩

/-- Settles O30: the digest is that of no block, and the FILL1 of the fusion changes no byte. -/
theorem hashFillOfNothing : Obligations.HashFillOfNothing := by
  intro s c hadm hm hlen
  obtain ⟨t, -, f, ht, -, hf, -, hbytes, hdigest, -⟩ := fusionEquivalence s c hadm hm
  obtain ⟨-, -, hfill, -⟩ := fillsOfNothing s c hm hlen
  obtain ⟨f', hf', hsame⟩ := hfill (admissible_fill1_of_hashFill hadm)
  obtain rfl : f = f' := Host.Outcome.next.inj (hf.symm.trans hf')
  rw [hlen, Nat.zero_div, Memory.blocks_zero, hashOf_nil] at hdigest
  exact ⟨t, ht, hdigest, fun a ha => (hbytes a ha).trans (hsame a)⟩

/-! ### The second pass -/

theorem sameHostRegs_argWritten {c d : Context} (h : SameHostRegs c d) (r : ArgReg) : d.argWritten r = c.argWritten r := by
  cases r
  · exact h.bufWritten
  · exact h.lenWritten
  · exact h.stateWritten
  · exact h.digestWritten

/-- After a buffer command every command that was admissible still is, on a context with the same operand registers and in the
same configuration (10_state R26). -/
theorem admissible_after {i : Instr} (hb : IsBuffer i) {s t : State} {c : Context} (h : exec i s = .next t)
    (hc : s.contexts[s.cur]? = some c) :
    ∃ d, SameHostRegs c d ∧ t.cfg = s.cfg ∧ ∀ j, Admissible j s c → Admissible j t d := by
  obtain ⟨⟨d, hd, hregs, -⟩, hshared, -⟩ := exec_buffer_frame hb h hc
  rw [← hshared.cur] at hd
  exact ⟨d, hregs, hshared.cfg, fun j hj => admissible_congr hj hd hshared.det hshared.cap hshared.cfg
    (sameHostRegs_arg hregs) (sameHostRegs_argWritten hregs)⟩

theorem length_fill1Out (cfg : Config) (st : Block) (m : Nat) : (fill1Out cfg st m).length = m := by
  rw [fill1Out, List.length_map, List.length_range]

/-- The second `n` chunks of the stream are the stream from the state after the first `m` (42_generator R150). -/
theorem drop_fill1Out (cfg : Config) (st : Block) (m n : Nat) :
    (fill1Out cfg st (m + n)).drop m = fill1Out cfg (fill1State cfg st m) n := by
  rw [(fill1StreamSplits cfg st m n).1, List.drop_left' (length_fill1Out cfg st m)]

/-- Settles O31: the second command finds the stream in the scratchpad and the persisted state in the state buffer, from which
`drop_fill1Out` says the stream goes on. -/
theorem secondPassHashesTheFill : Obligations.SecondPassHashesTheFill := by
  intro s c hadm hm
  obtain ⟨t, -, ht, -, -, -, hbuf, hst⟩ := hashFillWritesAll s c hadm hm
  have htm : Memory.wf t.mem = true := by
    rw [mem_of_exec (by decide) hadm ht]
    exact memAfter_wf .hashFill s.cfg c hm
  obtain ⟨d, hregs, hcfg, hstill⟩ := admissible_after (by decide) ht hadm.current
  obtain ⟨h, -, hh, -, -, hhash⟩ := hashWritesDigest t d (hstill _ (admissible_hash_of_hashFill hadm)) htm
  obtain ⟨u, -, hu, -, -, hdigest, hstream, -⟩ := hashFillWritesAll t d (hstill _ hadm) htm
  rw [hregs.argDigest, hregs.argBuf, hregs.argLen, hcfg, hbuf] at hhash hdigest
  rw [hregs.argBuf, hregs.argLen, hregs.argState, hcfg, hst, ← drop_fill1Out] at hstream
  exact ⟨t, h, u, ht, hh, hu, hhash, hdigest, hstream⟩

end Sys2Proof.Machine
end

section
/-! ## CAPQ and the detector -/

namespace Sys2Proof.Machine

open Sys2Proof.Safety

/-! ### The record (44_capability R186) -/

section
variable {cfg : Config}

theorem capOf_static {q : StaticQuery} (h : cfg.plat.static = some q) : capOf cfg = capOfStatic q := by
  simp only [capOf, h]

theorem capOf_probes (h : cfg.plat.static = none) : capOf cfg = capOfProbes (vecOutcome cfg.plat) (aesOutcome cfg) := by
  simp only [capOf, h]

/-- Whatever the vector probe did, `AES` is the self-test's verdict: the two probes are independent (44_capability R178). -/
@[simp] theorem capAes_capOfProbes (vec aes : ProbeOutcome) : capAes (capOfProbes vec aes) = (aes == .pass) := by
  cases vec <;> exact capAes_capRecord ..

theorem capOfProbes_vecTrap {p : Plat} (h : p.vecProbe = .trap) (aes : ProbeOutcome) :
    capWide (capOfProbes (vecOutcome p) aes) = false ∧ capWidth (capOfProbes (vecOutcome p) aes) = 0#16 := by
  simp [vecOutcome, h, capOfProbes]

theorem capOfProbes_vecOk {p : Plat} {w : BitVec 16} (h : p.vecProbe = .ok w) (aes : ProbeOutcome) :
    capWide (capOfProbes (vecOutcome p) aes) = true ∧ capWidth (capOfProbes (vecOutcome p) aes) = w := by
  simp [vecOutcome, h, capOfProbes]

/-- The crypto probe passes when it executes and the datapath's digest is the reference (44_capability R182, R184). -/
theorem aesOutcome_eq_pass : aesOutcome cfg = .pass ↔
    cfg.plat.aesProbe = .ok ∧ backendAnswer cfg cfg.katInput = .digest cfg.refDigest := by
  unfold aesOutcome
  cases cfg.plat.aesProbe with
  | trap => simp
  | ok => cases backendAnswer cfg cfg.katInput <;> simp

theorem capAes_capOf_probes (h : cfg.plat.static = none) : capAes (capOf cfg) = true ↔
    cfg.plat.aesProbe = .ok ∧ backendAnswer cfg cfg.katInput = .digest cfg.refDigest := by
  rw [capOf_probes h, capAes_capOfProbes, beq_iff_eq, aesOutcome_eq_pass]

/-- A datapath with no listed departure is the engine's own hash (44_capability R176). -/
theorem backendAnswer_conforming (h : cfg.backend = []) (blk : Block) :
    backendAnswer cfg blk = .digest (hashOf cfg [blk]) := by
  simp only [backendAnswer, h, backendLookup]

end

/-! ### The first CAPQ -/

section
variable {s : State} {c : Context} (hc : s.contexts[s.cur]? = some c) (hd : s.det = .uninit)
include hc

/-- The issuing context after the first CAPQ: `RES` is the record, and `HA`, `HB` may have changed. -/
theorem publishRes_detect_context :
    ∃ l, (publishRes (detect s)).contexts[s.cur]? = some { c.setHash l with res := capOf s.cfg } := by
  obtain ⟨l, he, hl⟩ := publishRes_detect_current hc
  obtain ⟨hk, -⟩ := List.getElem?_eq_some_iff.1 hl
  refine ⟨l, ?_⟩
  rw [he, State.setCtx_contexts, (detect_frame s).cur, List.getElem?_set_self hk]

include hd

/-- The first CAPQ completes, and publishes the record in `CAP` and in `RES` (44_capability R177, R178). -/
theorem exec_capq_first :
    ∃ t d, exec .capq s = .next t ∧ t.contexts[s.cur]? = some d ∧ d.res = capOf s.cfg ∧ t.cap = capOf s.cfg ∧
      t.det = .ready := by
  obtain ⟨hcap, hdet, -⟩ := detect_spec s
  obtain ⟨l, hl⟩ := publishRes_detect_context hc
  exact ⟨_, _, execCapq_uninit hc hd, hl, rfl, (publishRes_cap _).trans hcap, (publishRes_det _).trans hdet⟩

end

/-- Settles O36: `exec_capq_first` gives the record, and its fields are read back for each kind of platform. -/
theorem capqOutcomeTable : Obligations.CapqOutcomeTable := by
  intro s c hc hd
  obtain ⟨t, d, ht, hctx, hres, hcap, hdet⟩ := exec_capq_first hc hd
  refine ⟨t, d, ht, hctx, hres.trans hcap.symm, hdet, ?_⟩
  rw [hcap]
  refine ⟨capOf_reserved s.cfg, fun q hq => ?static, fun hq => ⟨fun hv => ?vecTrap, fun w hv => ?vecOk, ?aes⟩⟩
  case static =>
    rw [capOf_static hq]
    exact ⟨capAes_capRecord .., capWide_capRecord .., capWidth_capRecord ..⟩
  case vecTrap =>
    rw [capOf_probes hq]
    exact capOfProbes_vecTrap hv _
  case vecOk =>
    rw [capOf_probes hq]
    exact capOfProbes_vecOk hv _
  case aes => exact capAes_capOf_probes hq

/-- Settles O37: the frame every command has, and what `detect_spec` says the detector leaves. -/
theorem capqFirstFrame : Obligations.CapqFirstFrame := by
  intro s t c h hc hd
  obtain ⟨hothers, hcfg, -, hcur, hpending⟩ := exec_frame h
  obtain rfl : publishRes (detect s) = t := Host.Outcome.next.inj ((execCapq_uninit hc hd).symm.trans h)
  obtain ⟨l, hl⟩ := publishRes_detect_context hc
  obtain ⟨-, -, hp, hprobed, hstatic⟩ := detect_spec s
  refine ⟨⟨_, hl, rfl, rfl, rfl, rfl, ⟨rfl, rfl, rfl, rfl, rfl, rfl, rfl, rfl, rfl, rfl⟩⟩, hothers,
    (publishRes_mem _).trans hp.mem, (publishRes_handler _).trans hp.handler, hcfg, hcur, hpending, fun hn => ?_⟩
  rw [publishRes_checkpoint]
  by_cases hq : s.cfg.plat.static = none
  · exact hprobed hq
  · exact (hstatic hq).trans hn

/-- Settles O38: the detector writes `CAP` and `DET_STATE` only, and the record goes to `RES`. -/
theorem capqStaticPath : Obligations.CapqStaticPath := by
  intro s c q hc hd hq
  obtain ⟨hk, -⟩ := List.getElem?_eq_some_iff.1 hc
  have hrun : exec .capq s = .next (publishRes (detect s)) := execCapq_uninit hc hd
  rw [detect_static hq, publishRes_eq (s := { s with cap := capOfStatic q, det := .ready }) hc] at hrun
  exact ⟨_, { c with res := capOfStatic q }, hrun, List.getElem?_set_self hk, ⟨rfl, rfl, rfl, rfl, rfl, rfl⟩,
    rfl, rfl, rfl, rfl⟩

/-- Settles O39: a later CAPQ is one write of `RES`. -/
theorem capqLaterIsPureRead : Obligations.CapqLaterIsPureRead := by
  intro s c hc hd
  obtain ⟨hk, -⟩ := List.getElem?_eq_some_iff.1 hc
  exact ⟨_, { c with res := s.cap }, execCapq_ready hc hd, List.getElem?_set_self hk, rfl,
    ⟨rfl, rfl, rfl, rfl, rfl, rfl⟩, ⟨rfl, rfl, rfl, rfl, rfl, rfl, rfl, rfl, rfl, rfl⟩,
    ⟨rfl, rfl, rfl, rfl, rfl, rfl, rfl, rfl, List.length_set⟩, sameOthers_of_set rfl, rfl⟩

/-- Settles O40: `AES` is 1 only when the probe executes and the digests agree, so either failure leaves it 0. -/
theorem probesAndSelfTestGate : Obligations.ProbesAndSelfTestGate := by
  intro s c hc hd hq
  obtain ⟨t, -, ht, -, -, hdet, -, -, hprobes⟩ := capqOutcomeTable s c hc hd
  obtain ⟨hvec, -, haes⟩ := hprobes hq
  refine ⟨t, ht, hdet, fun d hb hne => ?mismatch, fun ha => ?aesTrap, fun hv => (hvec hv).1⟩
  case mismatch =>
    refine Bool.eq_false_iff.2 fun hbit => hne ?_
    exact BackendAnswer.digest.inj (hb.symm.trans (haes.1 hbit).2)
  case aesTrap =>
    refine Bool.eq_false_iff.2 fun hbit => ?_
    exact AesProbe.noConfusion (ha.symm.trans (haes.1 hbit).1)

/-- Settles O41: the conforming datapath's digest of `KAT_INPUT` is the reference. -/
theorem conformingCorePassesSelfTest : Obligations.ConformingCorePassesSelfTest := by
  intro s c hc hd hq ha hb href
  obtain ⟨t, -, ht, -, -, -, -, -, hprobes⟩ := capqOutcomeTable s c hc hd
  obtain ⟨-, -, haes⟩ := hprobes hq
  exact ⟨t, ht, haes.2 ⟨ha, href ▸ backendAnswer_conforming hb _⟩⟩

/-! ### Guarded probes -/

/-- Settles O42: neither probe's body touches `SAVED_HANDLER`, so `guarded_probed` holds of both. -/
theorem guardedRestoresHandler : Obligations.GuardedRestoresHandler := by
  intro s
  obtain ⟨hvec, hvecNone⟩ := guarded_probed (w := .vecProbe) vecProbeBody_hashOnly s
  obtain ⟨haes, haesNone⟩ := guarded_probed (w := .aesProbe) aesProbeBody_hashOnly s
  exact ⟨⟨hvec.handler, hvecNone⟩, ⟨haes.handler, haesNone⟩, fun which =>
    ⟨enterProbe_handler s which, enterProbe_savedHandler s which, enterProbe_checkpoint s which⟩⟩

/-! ### A command beside the detector (44_capability R189) -/

section
variable {s : State} {c d : Context} {i : Instr} {k : Nat}

theorem execCapq_probing (hc : s.contexts[s.cur]? = some c) (hd : s.det = .probing) :
    execCapq s = .refused .concurrentDetect := by
  simp only [execCapq, hc, hd]

/-- Beside the detector no command of another context has a meaning (30_encoding R86 item 4). -/
theorem detectRefusal_encode (hk : s.contexts[k]? = some d) (i : Instr) :
    detectRefusal s k (encode i) = some (if i = .capq then .concurrentDetect else .noCapabilityRecord) := by
  simp only [detectRefusal, hk, decode_encode]
  cases i <;> rfl

/-- The first action beside the detector is a command of another context: the running CAPQ is refused. -/
theorem overlapRefusal_detecting {k' : Nat} (hk : s.contexts[k']? = some d) (hne : k' ≠ k) (reads writes : List Span)
    (i : Instr) (n : Nat) (rest : List HostAction) :
    overlapRefusal k true reads writes s (.cmd k' (encode i) n :: rest) =
      some (if i = .capq then .concurrentDetect else .noCapabilityRecord) := by
  simp only [overlapRefusal, if_neg hne, if_true, detectRefusal_encode hk]

/-- A first CAPQ written to `CMD` would complete on its own (44_capability R177, 30_encoding R85). -/
theorem exec_capq_selected (hc : s.contexts[k]? = some c) (hd : s.det = .uninit) (w : BitVec 32) :
    ∃ t, exec .capq (s.select k w) = .next t := by
  obtain ⟨hk, -⟩ := List.getElem?_eq_some_iff.1 hc
  rw [State.select_eq hc]
  exact ⟨_, execCapq_uninit (List.getElem?_set_self hk) hd⟩

/-- The CAPQ that runs the detector is refused when a command of another context comes first in its time. -/
theorem issue_capq_overlapped {k' : Nat} (hc : s.contexts[k]? = some c) (hd : s.det = .uninit)
    (hk : s.contexts[k']? = some d) (hne : k' ≠ k) (i : Instr) (n : Nat) (rest : List HostAction) :
    issue s k (encode .capq) (.cmd k' (encode i) n :: rest) =
      .refused (if i = .capq then .concurrentDetect else .noCapabilityRecord) := by
  obtain ⟨t, ht⟩ := exec_capq_selected hc hd (encode .capq)
  have hdet : runsDetector s .capq = true := by simp [runsDetector, hd]
  refine issue_overlapped hc (decode_encode .capq) ht ?_
  rw [hdet]
  exact overlapRefusal_detecting hk hne _ _ i n rest

end

/-- Settles O44: `execCapq_probing`, and a step on the first CAPQ with the second command in its window. -/
theorem detectorRunsAlone : Obligations.DetectorRunsAlone := by
  intro s c d hc
  refine ⟨execCapq_probing hc, fun k i n rest hd hne hk hp => ?_⟩
  rw [step_cmd hp]
  exact issue_capq_overlapped (s := { s with pending := .cmd k (encode i) n :: rest }) hc hd hk hne i n []

end Sys2Proof.Machine
end

section
/-! ## The exception (60_exceptions R201, R208) -/

namespace Sys2Proof.Machine

open Sys2Proof.Safety

theorem sameHostRegs_setHash (c : Context) (l : LaneState) : SameHostRegs c (c.setHash l) :=
  ⟨rfl, rfl, rfl, rfl, rfl, rfl, rfl, rfl, rfl, rfl⟩

/-- What touches `HA` and `HB` only leaves all shared state. -/
theorem HashOnly.sameShared {s t : State} (h : HashOnly s t) : SameShared s t := { h with }

/-- Settles O43: trap entry touches `HA` and `HB` of the current context only (`raiseProbeTrap_hashOnly`). -/
theorem trapEntryIsPrecise : Obligations.TrapEntryIsPrecise := by
  intro s c hc
  have htrap : HashOnly s (raiseProbeTrap s).2 := raiseProbeTrap_hashOnly s
  obtain ⟨l, hl⟩ := htrap.current c hc
  exact ⟨.illegalInstruction, c.setHash l, rfl, rfl, hl, rfl, rfl, rfl, rfl, sameHostRegs_setHash c l,
    htrap.sameShared, htrap.others, htrap.mem⟩

end Sys2Proof.Machine
end

section
/-! ## Reset and the idle core (70_reset R230 to R234) -/

namespace Sys2Proof.Machine

open Sys2Proof.Safety

/-! ### Reset -/

/-- No operand register is written after reset (10_state R39). -/
@[simp] theorem Context.reset_argWritten (r : ArgReg) : Context.reset.argWritten r = false := by
  cases r <;> rfl

/-- A step on a reset always completes (70_reset R230). -/
theorem step_reset {s : State} {rest : List HostAction} (h : s.pending = .reset :: rest) :
    step s = .next (hostReset { s with pending := rest }) :=
  step_cons h

/-- Reset leaves the same values in every context. -/
theorem mem_hostReset_contexts {s : State} {c : Context} (h : c ∈ (hostReset s).contexts) : c = Context.reset := by
  obtain ⟨-, -, rfl⟩ := List.mem_map.1 h
  rfl

/-- Settles O53: the step is `step_reset`, and each context is then `Context.reset`. -/
theorem resetFromAnyState : Obligations.ResetFromAnyState := by
  intro s rest hp
  refine ⟨_, step_reset hp, rfl, rfl, fun c hc => ?_, List.length_map _, rfl, rfl, rfl, rfl⟩
  obtain rfl := mem_hostReset_contexts hc
  exact ⟨rfl, Context.reset_argWritten⟩

/-! ### The idle core -/

/-- Settles O6: `step_nil`; after reset no action is pending. -/
theorem idleCoreDoesNothing : Obligations.IdleCoreDoesNothing :=
  ⟨step_nil rfl, fun _ => step_nil⟩

/-! ### The first command -/

/-- The opcode table's numbering of a word gives the word back (30_encoding R82). -/
theorem tableWord_toNat (w : BitVec 32) : tableWord 32 w.toNat = w := by
  rw [tableWord, Nat.mod_eq_of_lt w.isLt, BitVec.ofNat_toNat, BitVec.setWidth_eq]

/-- There is a context after reset, and it is the current one. -/
theorem reset_current : State.reset.contexts[State.reset.cur]? = some Context.reset :=
  List.getElem?_replicate_of_lt (Nat.succ_pos _)

section
variable {s : State} {c : Context} (hc : s.contexts[s.cur]? = some c)
include hc

/-- The word of a command, placed as the host's next action, is the command's meaning on the current context. -/
theorem step_withFetchWord_encode (i : Instr) :
    step (s.withFetchWord 32 (encode i).toNat) =
      exec i { s with contexts := s.contexts.set s.cur { c with cmd := encode i } } := by
  have hword : decodeTableWord 32 (encode i).toNat = some i :=
    decodeTableWord_eq_some.2 (by rw [tableWord_toNat, decode_encode])
  have hstep := fetchedWordRuns s c 32 (encode i).toNat i hc hword
  rwa [← tableWord, tableWord_toNat] at hstep

/-- Without the capability record a buffer command placed next is refused, whatever else fails (30_encoding R86 item 4). -/
theorem step_buffer_without_record {i : Instr} (hb : IsBuffer i) (hd : s.det ≠ .ready) :
    step (s.withFetchWord 32 (encode i).toNat) = .refused .noCapabilityRecord := by
  obtain ⟨hk, -⟩ := List.getElem?_eq_some_iff.1 hc
  rw [step_withFetchWord_encode hc]
  exact (refusalOrder i _ _ hb (List.getElem?_set_self hk)).1 hd

/-- A CAPQ placed next, where there is no record yet, completes with the record published (44_capability R177, R178). -/
theorem step_capq_first (hd : s.det = .uninit) :
    ∃ t, step (s.withFetchWord 32 (encode .capq).toNat) = .next t ∧ t.det = .ready := by
  obtain ⟨hk, -⟩ := List.getElem?_eq_some_iff.1 hc
  obtain ⟨t, -, ht, -, -, -, hready⟩ := exec_capq_first (s := { s with contexts := s.contexts.set s.cur _ })
    (List.getElem?_set_self hk) hd
  exact ⟨t, (step_withFetchWord_encode hc .capq).trans ht, hready⟩

end

/-- Settles O45: after reset there is a current context and no record (`step_buffer_without_record`, `step_capq_first`). -/
theorem bootSequence : Obligations.BootSequence :=
  ⟨fun _ hb => step_buffer_without_record reset_current hb DetState.noConfusion, step_capq_first reset_current rfl⟩

end Sys2Proof.Machine
end
